-- ==== Sys2Proof/Word.lean ====
section
/-! DEFINITION. The word and bit types of HTW (00_scope.md R9). -/

namespace Sys2Proof

/-- One host bus word: every register and SPEC entry is exchanged as one 32-bit number (20_memory.md R52). -/
abbrev Word := BitVec 32

/-- One reservoir bit (20_memory.md R58): `true` is 1. -/
abbrev Bit := Bool

end Sys2Proof
end

