-- ==== Sys2Proof/Config.lean ====
section
/-! DEFINITION. The fixed parameters of HTW (00_scope.md R7), the names of its trees (40_catalog.md R102), and the free values
(opaque constants without a body) that stand for everything the spec leaves open (93_implementation_defined.md U1 to U20). -/

namespace Sys2Proof

/-- The trees of the ROM: T1 to T13 and T15 without T4, T16 shared by 16..23, T24 shared by 24..31, T32 and T33
(40_catalog.md R101, R102). -/
inductive TreeId where
  | t1 | t2 | t3 | t5 | t6 | t7 | t8 | t9 | t10 | t11 | t12 | t13 | t15 | t16 | t24 | t32 | t33
deriving DecidableEq, Repr

namespace Config

/-- NUM_TABLES (R7): table indices 0..33. -/
def numTables : Nat := 34
/-- NUM_LINES (R7): spectral lines of one granule. -/
abbrev numLines : Nat := 576
/-- WALK_BUDGET (R7): bit reads of one walk. -/
def walkBudget : Nat := 32
/-- ESC_THRESHOLD (R7): an offset byte of 250..255 is a chained escape. -/
def escThreshold : Nat := 250
/-- QUAD_BASE (R7): the count1 tables are 32 + C1. -/
def quadBase : Nat := 32
/-- QUAD_THRESHOLD (R7): a table index above 31 selects the quadruple grammar. -/
def quadThreshold : Nat := 31
/-- SHORT_R1 (R7): RS1 of a short block. -/
def shortR1 : Nat := 36
/-- MAX_TREE_LEN (R7): cells of the largest tree. -/
def maxTreeLen : Nat := 512
/-- The largest reservoir position that a command may carry the cursor to: 2^32 - 1 (POS_W = 32, 70_reset_and_hazards.md R234). -/
def maxPosition : Nat := 2 ^ 32 - 1

/-- TREE_ROM (R8, D24): every tree cell that the machine's parameters do not list. Free value, log 1. -/
opaque treeRom : TreeId → Nat → BitVec 16
/-- SFB (R8, D21): every band start that the machine's parameters do not list, by sample-rate index and band number.
Free value, log 1. -/
opaque sfb : BitVec 4 → Nat → BitVec 16
/-- RESV_BITS (R8, D20, U3): the bit at a position that the reservoir has not buffered. Free value, log 23. -/
opaque resvBit : Nat → Bit
/-- U1: entry `i` of SPEC after the reset that takes draw `k`. Free value, log 5. -/
opaque specDraw : Nat → Nat → BitVec 16
/-- U2: what a host read of a result register or of SPEC returns while BUSY = 1, at draw `k`. Free value, log 13. -/
opaque busyRead : Nat → Word
/-- U11: the reservoir cursor after a reset that abandoned a command, at draw `k`. Free value, log 14. -/
opaque abandonedCursor : Nat → BitVec 32

/-- U19: IDX in IDLE, at draw `k`. Free value, log 6. -/
opaque freeIdx : Nat → BitVec 10
/-- U19: BUDGET in IDLE, at draw `k`. Free value, log 6. -/
opaque freeBudget : Nat → BitVec 6
/-- U19: CELL in IDLE, at draw `k`. Free value, log 6. -/
opaque freeCell : Nat → BitVec 16
/-- U19: POS in IDLE, at draw `k`. Free value, log 6. -/
opaque freePos : Nat → BitVec 10
/-- U19: END in IDLE, at draw `k`. Free value, log 6. -/
opaque freeEnd : Nat → BitVec 33
/-- U19: RS1 in IDLE, at draw `k`. Free value, log 6. -/
opaque freeRs1 : Nat → BitVec 16
/-- U19: RS2 in IDLE, at draw `k`. Free value, log 6. -/
opaque freeRs2 : Nat → BitVec 16
/-- U19: TBL in IDLE, at draw `k`. Free value, log 6. -/
opaque freeTbl : Nat → BitVec 6

end Config

end Sys2Proof
end

