-- ==== Sys2Proof/Syntax.lean ====
section
/-! DEFINITION. The commands of HTW, one constructor for each row of spec/opcode_table.json (30_encoding.md R82). -/

namespace Sys2Proof

/-- The operation of an accepted command, as RUN(op) names it (10_state.md R38). -/
inductive Op where
  | granule | sym | walk | desc
deriving DecidableEq, Repr

/-- A command with its operand. GRANULE has none: its TABLE field is ignored (30_encoding.md R83). The operand of the
other three is the TABLE field as it stands in the word; that it is at most 33 is the check of `Instr.wf`. -/
inductive Instr where
  /-- GRANULE: decode one granule into SPEC (43_granule_decoder.md R180). -/
  | granule
  /-- SYM t: decode one symbol with table `t` (42_symbol_reconstructor.md R147). -/
  | sym (t : BitVec 6)
  /-- WALK t: walk one code word with table `t` (41_tree_walker.md R129). -/
  | walk (t : BitVec 6)
  /-- DESC t: read descriptor `t` (40_catalog.md R107). -/
  | desc (t : BitVec 6)
deriving DecidableEq, Repr

/-- The operation of a command. -/
def Instr.op : Instr → Op
  | .granule => .granule
  | .sym _ => .sym
  | .walk _ => .walk
  | .desc _ => .desc

/-- The command that the latched operation LOP and table LTAB stand for (10_state.md R39). -/
def Op.withTable : Op → BitVec 6 → Instr
  | .granule, _ => .granule
  | .sym, t => .sym t
  | .walk, t => .walk t
  | .desc, t => .desc t

end Sys2Proof
end

