-- ==== Sys2Proof/WellFormed.lean ====
section
/-! DEFINITION. Which commands are legal: SYM, WALK and DESC need a table index of at most 33 (30_encoding.md R83, R84). -/

namespace Sys2Proof

/-- A table index of the catalog: 0..33 (40_catalog.md R100). -/
def tableInRange (t : BitVec 6) : Bool := t.toNat < Config.numTables

/-- The legal commands (30_encoding.md R84). -/
def Instr.wf : Instr → Bool
  | .granule => true
  | .sym t => tableInRange t
  | .walk t => tableInRange t
  | .desc t => tableInRange t

end Sys2Proof
end

