-- ==== Sys2Proof/Decode.lean ====
section
/-! DEFINITION. The decoder of the command word, total on every 32-bit word and rejecting by name, and the encoder
(30_encoding.md R80 to R86, R91). -/

namespace Sys2Proof

/-- Field OP of a command word, bits 3:0 (R80). -/
def opField (w : Word) : BitVec 4 := w.extractLsb' 0 4

/-- Field TABLE of a command word, bits 13:8 (R80). -/
def tableField (w : Word) : BitVec 6 := w.extractLsb' 8 6

/-- Why a word is no command (R84). -/
inductive Reject where
  /-- OP is 0x0 or 0x5 to 0xF. -/
  | illegalOp (op : BitVec 4)
  /-- SYM, WALK or DESC with TABLE 34..63. -/
  | tableAbove33 (op : BitVec 4) (t : BitVec 6)
deriving DecidableEq, Repr

/-- The answer of the decoder: a command, or a rejection by name. -/
inductive Decoded where
  | command (i : Instr)
  | illegal (r : Reject)
deriving DecidableEq, Repr

/-- The OP values of R82. -/
def opOfCode (op : BitVec 4) : Option Op :=
  match op.toNat with
  | 1 => some .granule
  | 2 => some .sym
  | 3 => some .walk
  | 4 => some .desc
  | _ => none

/-- The OP value of an operation (R82). -/
def Op.code : Op → BitVec 4
  | .granule => 1
  | .sym => 2
  | .walk => 3
  | .desc => 4

/-- A command from its two fields, as legal(op, t) of R84 admits it. -/
def decodeFields (op : BitVec 4) (t : BitVec 6) : Decoded :=
  match opOfCode op with
  | none => .illegal (.illegalOp op)
  | some o => if (o.withTable t).wf then .command (o.withTable t) else .illegal (.tableAbove33 op t)

/-- Decoding a command word: bits 7:4 and 31:14 are ignored (R85). -/
def decode (w : Word) : Decoded := decodeFields (opField w) (tableField w)

/-- The command of a word, or none where the decoder rejects it. -/
def decode? (w : Word) : Option Instr :=
  match decode w with
  | .command i => some i
  | .illegal _ => none

/-- The TABLE field that the assembler writes for a command (R91): GRANULE assembles to 0x00000001. -/
def Instr.tableCode : Instr → BitVec 6
  | .granule => 0
  | .sym t => t
  | .walk t => t
  | .desc t => t

/-- The word a command assembles to: OP in bits 3:0, TABLE in bits 13:8, every other bit 0 (R80, R91). -/
def encode (i : Instr) : Word := (0#18 ++ i.tableCode ++ 0#4 ++ i.op.code : BitVec 32)

/-- The bits of a command word that its decoding depends on (R80, R83, R85): OP, and TABLE but for GRANULE. -/
def Instr.careMask : Instr → Word
  | .granule => 0x0000000F
  | .sym _ => 0x00003F0F
  | .walk _ => 0x00003F0F
  | .desc _ => 0x00003F0F

/-- The command this decoder reads from a table row's bits, numbered as spec/opcode_table.json numbers them. A command is
one 32-bit word (R86) exchanged as one number, so no byte order enters (20_memory.md R52). Bits above `nbits` are 0. -/
def decodeTableWord (nbits w : Nat) : Option Instr := decode? (BitVec.ofNat 32 (w % 2 ^ nbits))

end Sys2Proof
end

