-- ==== Sys2Proof/Machine/State.lean ====
section
/-! DEFINITION. The state of HTW as plain data: the registers of 10_state.md, the spectral memory, the reservoir, the
parameters the machine is built with, and the schedule of what happens around it. With it the reasons a step can stop, and
the state after reset (10_state.md R43). -/

namespace Sys2Proof.Machine

/-- Why the machine stops with a fault. HTW itself raises no exceptions (60_exceptions.md R200). -/
inductive Fault where
  /-- Raised by a host access at a byte offset outside the 8 KiB window 0x0000..0x1FFF (20_memory.md R50): no such
  offset exists. Safe: nothing can be proved of such a run. -/
  | outsideWindow (addr : Nat)
deriving DecidableEq, Repr

/-- Why the model refuses a step. Each is a refusal that the spec itself demands, but the first. -/
inductive Refusal where
  /-- Raised by an arm of `exec` whose instruction has no meaning yet. No arm raises it. Safe. -/
  | notModelled (mnemonic : String)
  /-- Raised by a host access that is not 32 bits wide or not 4-byte aligned (20_memory.md R51, U8: stuck). Safe. -/
  | accessShape (addr n : Nat)
  /-- Raised by a command whose run would carry the cursor past 2^32 - 1, or a GRANULE with
  PART2_START + PART23_LEN > 2^32 - 1 (70_reset_and_hazards.md R234, U9: refuse). Safe. -/
  | positionRange
  /-- Raised by an agent other than HTW that moves the cursor while BUSY = 1 (70_reset_and_hazards.md R241, U10). Safe. -/
  | cursorMovedWhileBusy
  /-- Raised by an agent other than HTW that changes a bit HTW may read while BUSY = 1 (R241, U10). Safe. -/
  | bitChangedWhileBusy (p : Nat)
deriving DecidableEq, Repr

/-- The reservoir's buffered bits (10_state.md R41, 20_memory.md R61): positions strictly rising (`Memory.wf`). -/
abbrev Memory := List (Nat × Bit)

/-- The spectral memory: 576 entries of 16-bit two's-complement integers (20_memory.md R56). -/
abbrev SpecMem := Vector (BitVec 16) Config.numLines

/-- The parameters a machine is built with (00_scope.md R8): listed tree cells and band starts (the first listing of a
key counts), and the (G) and (D) cells of the catalog (40_catalog.md R101). No step changes them. -/
structure Params where
  /-- TREE_ROM: listed cells. ROM(T32, 0..9) is fixed by the spec and cannot be listed otherwise (40_catalog.md R106). -/
  treeRom : List ((TreeId × Nat) × BitVec 16)
  /-- SFB: listed band starts, by sample-rate index and band number (20_memory.md R62). -/
  sfb : List ((BitVec 4 × Nat) × BitVec 16)
  /-- DESC_TREE_LEN: read only for the rows whose treeLength R101 marks (G). -/
  descTreeLen : Vector (Fin 513) 34
  /-- DESC_LINBITS: read only for the rows whose linBits R101 marks (G) or (D). -/
  descLinBits : Vector (Fin 14) 34
deriving DecidableEq, Repr

/-- A descriptor (30_encoding.md R90): the tree or none, its cell count 0..512, the escape-bit count 0..13. -/
structure Descriptor where
  tree : Option TreeId
  treeLength : Fin 513
  linBits : Fin 14
deriving DecidableEq, Repr

/-- The stored STATUS bits (10_state.md R23). BUSY is computed from PHASE (R38), log 22. -/
structure Status where
  done : Bool
  softFail : Bool
  rollback : Bool
  illegalCmd : Bool
  busyWrite : Bool
deriving DecidableEq, Repr

/-- PHASE (10_state.md R38). LOP and LTAB exist only while a command runs (R39), so they stand inside `run`, log 22. -/
inductive Phase where
  | idle
  | run (lop : Op) (ltab : BitVec 6)
deriving DecidableEq, Repr

/-- The transient datapath state of the walker and the granule decoder (10_state.md R39). Unspecified in IDLE and never
read across commands, log 6. -/
structure Transient where
  idx : BitVec 10
  budget : BitVec 6
  cell : BitVec 16
  pos : BitVec 10
  endPos : BitVec 33
  rs1 : BitVec 16
  rs2 : BitVec 16
  tbl : BitVec 6
deriving DecidableEq, Repr

/-- A host bus access of `n` bytes at byte offset `addr` of the window (00_scope.md R10, 20_memory.md R50). -/
inductive Access where
  | read (addr n : Nat)
  | write (addr n : Nat) (v : Word)
deriving DecidableEq, Repr

/-- What happens next around HTW. The order of State.inputs is the order in which the agents move, log 9. -/
inductive Event where
  /-- The host makes one access (20_memory.md R64). -/
  | access (a : Access)
  /-- The host's loop WAITDONE (30_encoding.md R92), log 21. -/
  | waitDone
  /-- The reservoir's owner positions the cursor (70_reset_and_hazards.md R233). -/
  | moveCursor (p : BitVec 32)
  /-- The reservoir's owner buffers the bit at a position, or drops it (20_memory.md R61). -/
  | setBit (p : BitVec 32) (b : Option Bit)
  /-- The platform resets HTW (70_reset_and_hazards.md R230). -/
  | reset
  /-- The next sticky condition that the running command raises shows in STATUS (70_reset_and_hazards.md R243), log 8. -/
  | raiseShows
  /-- The running command completes (10_state.md R38, 70_reset_and_hazards.md R245). -/
  | finish
deriving DecidableEq, Repr

/-- The state of HTW and of what it is connected to. -/
structure State where
  /-- CTRL.IRQ_EN (10_state.md R22). -/
  irqEn : Bool
  /-- STATUS (R23). -/
  status : Status
  /-- PART2_START (R25). -/
  part2Start : BitVec 32
  /-- PART23_LEN (R26). -/
  part23Len : BitVec 12
  /-- BIG_VALUES (R27). -/
  bigValues : BitVec 9
  /-- TABLE_SELECT.TS0 (R28). -/
  ts0 : BitVec 5
  /-- TABLE_SELECT.TS1 (R28). -/
  ts1 : BitVec 5
  /-- TABLE_SELECT.TS2 (R28). -/
  ts2 : BitVec 5
  /-- COUNT1_SEL.C1 (R29). -/
  c1 : BitVec 1
  /-- REGION_COUNT.R0C (R30). -/
  r0c : BitVec 5
  /-- REGION_COUNT.R1C (R30). -/
  r1c : BitVec 5
  /-- BLOCK_CFG.WS (R31). -/
  ws : BitVec 1
  /-- BLOCK_CFG.BT (R31). -/
  bt : BitVec 2
  /-- SR_INDEX (R32). -/
  srIndex : BitVec 4
  /-- LINECOUNT (R33). -/
  lineCount : BitVec 10
  /-- REGION1_START (R34). -/
  region1Start : BitVec 16
  /-- REGION2_START (R34). -/
  region2Start : BitVec 16
  /-- RES_X (R35). -/
  resX : Word
  /-- RES_Y (R35). -/
  resY : Word
  /-- RES_V (R35). -/
  resV : Word
  /-- RES_W (R35). -/
  resW : Word
  /-- SPEC (R36). -/
  spec : SpecMem
  /-- PHASE with LOP and LTAB (R38, R39). -/
  phase : Phase
  /-- IDX, BUDGET, CELL, POS, END, RS1, RS2, TBL (R39). -/
  tr : Transient
  /-- XR (R40). -/
  xr : BitVec 4
  /-- YR (R40). -/
  yr : BitVec 4
  /-- CUR, the reservoir cursor (R41). -/
  cur : BitVec 32
  /-- RESV_BITS, the buffered bits (R41, 20_memory.md R61). -/
  resv : Memory
  /-- The parameters of 00_scope.md R8. -/
  params : Params
  /-- The model's own: the schedule still to come, oldest first, log 9. -/
  inputs : List Event
  /-- The model's own: what host reads returned, newest first, log 11. -/
  answers : List Word
  /-- The model's own: how many SoftFail raises of the running command show in STATUS already, log 8. -/
  shownSoft : Nat
  /-- The model's own: whether the Rollback raise of the running command shows in STATUS already, log 8. -/
  shownRollback : Bool
  /-- The model's own: the counter that the free values are applied to, log 12. -/
  draws : Nat
deriving DecidableEq, Repr

/-- The datapath while a command runs: the cursor as an unbounded position, XR, YR, how many times the command has raised
SoftFail, and the transient state. -/
structure Datapath where
  cur : Nat
  xr : BitVec 4
  yr : BitVec 4
  softFails : Nat
  tr : Transient
deriving DecidableEq, Repr

/-- What the datapath reads and no command writes: the parameters and the reservoir's bits. -/
structure Env where
  params : Params
  resv : Memory
deriving DecidableEq, Repr

/-- A walk's result (41_tree_walker.md R122): the raw nibbles, whether a leaf was reached, and the datapath after it. -/
structure Walk where
  x : BitVec 4
  y : BitVec 4
  ok : Bool
  dp : Datapath
deriving DecidableEq, Repr

/-- The signed outputs of DecodeSymbol (42_symbol_reconstructor.md R146), and the datapath after it. -/
structure Symbol where
  x : Int
  y : Int
  v : Int
  w : Int
  dp : Datapath
deriving DecidableEq, Repr

/-- The granule decoder between two symbols: the datapath and the spectral memory as written so far. -/
structure Gran where
  dp : Datapath
  spec : SpecMem
deriving DecidableEq, Repr

/-- What a command raises in a whole run (60_exceptions.md R202). -/
structure Raises where
  softFails : Nat
  rollback : Bool
deriving DecidableEq, Repr

/-- The four conditions (60_exceptions.md R202). -/
inductive Condition where
  | softFail | rollback | illegalCmd | busyWrite
deriving DecidableEq, Repr

/-- The registers of the window (20_memory.md R50). -/
inductive Reg where
  | ctrl | status | cmd | part2Start | part23Len | bigValues | tableSelect | count1Sel | regionCount | blockCfg | srIndex
  | lineCount | region1Start | region2Start | resX | resY | resV | resW
  | spec (i : Fin Config.numLines)
deriving DecidableEq, Repr

/-- The transient state in IDLE at draw `k`: free values (10_state.md R39, U19), log 6. -/
def Transient.free (k : Nat) : Transient where
  idx := Config.freeIdx k
  budget := Config.freeBudget k
  cell := Config.freeCell k
  pos := Config.freePos k
  endPos := Config.freeEnd k
  rs1 := Config.freeRs1 k
  rs2 := Config.freeRs2 k
  tbl := Config.freeTbl k

/-- SPEC after the reset that takes draw `k`: a free value for each entry (10_state.md R43, U1), log 5. -/
def SpecMem.drawn (k : Nat) : SpecMem :=
  ⟨((List.range Config.numLines).map (Config.specDraw k)).toArray, by simp⟩

/-- The default treeLength of each index, as 40_catalog.md R101 lists it, log 2. -/
def Params.defaultTreeLen : Vector (Fin 513) 34 :=
  #v[0, 7, 17, 17, 0, 31, 31, 71, 71, 71, 127, 127, 127, 511, 0, 511,
     511, 511, 511, 511, 511, 511, 511, 511, 512, 512, 512, 512, 512, 512, 512, 512, 31, 31]

/-- The default linBits of each index, as 40_catalog.md R101 lists it, log 2. -/
def Params.defaultLinBits : Vector (Fin 14) 34 :=
  #v[0, 0, 0, 0, 0, 0, 0, 0, 0, 0, 0, 0, 0, 0, 0, 0, 1, 2, 3, 4, 6, 8, 10, 13, 4, 5, 6, 7, 8, 9, 11, 13, 0, 0]

/-- The parameters with the defaults of R101, and no tree cell or band start listed. -/
def Params.default : Params where
  treeRom := []
  sfb := []
  descTreeLen := Params.defaultTreeLen
  descLinBits := Params.defaultLinBits

/-- The machine after reset (10_state.md R43, 70_reset_and_hazards.md R231). The cursor, which reset does not touch, is a
DESIGN CHOICE of 0 here (log 4); SPEC and the transient state are free values (logs 5 and 6). -/
def State.reset : State where
  irqEn := false
  status := { done := false, softFail := false, rollback := false, illegalCmd := false, busyWrite := false }
  part2Start := 0
  part23Len := 0
  bigValues := 0
  ts0 := 0
  ts1 := 0
  ts2 := 0
  c1 := 0
  r0c := 0
  r1c := 0
  ws := 0
  bt := 0
  srIndex := 0
  lineCount := 0
  region1Start := 0
  region2Start := 0
  resX := 0
  resY := 0
  resV := 0
  resW := 0
  spec := SpecMem.drawn 0
  phase := .idle
  tr := Transient.free 0
  xr := 0
  yr := 0
  cur := 0
  resv := []
  params := Params.default
  inputs := []
  answers := []
  shownSoft := 0
  shownRollback := false
  draws := 1

end Sys2Proof.Machine
end

