-- ==== Sys2Proof/Machine/Ops.lean ====
section
/-! DEFINITION. The operations that every command shares: the reservoir port (20_memory.md R58 to R60), the tree ROM and the
band port (R55, R62), the spectral memory (R56), raising a condition (60_exceptions.md R201), and the acceptance and the
completion of a command (10_state.md R38). HTW has no trap to take and none to return from (60_exceptions.md R207, R208):
`raise` and `complete` are all that stands in their place. -/

namespace Sys2Proof.Machine

/-! ### The reservoir's bits -/

/-- The bit that is buffered at a position, if any. -/
def Memory.lookup : Memory → Nat → Option Bit
  | [], _ => none
  | (q, b) :: m, p => if p = q then some b else Memory.lookup m p

/-- RESV_BITS(p): the buffered bit, or a free value where none is buffered (20_memory.md R61, U3). -/
def Memory.read (m : Memory) (p : Nat) : Bit := (m.lookup p).getD (Config.resvBit p)

/-- Buffering a bit at a position keeps the positions rising. -/
def Memory.write : Memory → Nat → Bit → Memory
  | [], p, b => [(p, b)]
  | (q, c) :: m, p, b =>
    if p < q then (p, b) :: (q, c) :: m
    else if p = q then (p, b) :: m
    else (q, c) :: Memory.write m p b

/-- Dropping the bit at a position: it is buffered no more. -/
def Memory.drop (m : Memory) (p : Nat) : Memory := m.filter fun c => c.1 ≠ p

/-- Buffering or dropping the bit at a position. -/
def Memory.set (m : Memory) (p : Nat) : Option Bit → Memory
  | some b => m.write p b
  | none => m.drop p

/-- The canonical form: positions strictly rising, each one a 32-bit position (log 3). -/
abbrev Memory.wf (m : Memory) : Prop := m.Pairwise (fun a b => a.1 < b.1) ∧ ∀ c ∈ m, c.1 ≤ Config.maxPosition

/-! ### The reservoir port -/

/-- The part of the state that a running command reads and never writes. -/
def State.env (s : State) : Env := { params := s.params, resv := s.resv }

/-- The datapath at the start of a command: the reservoir cursor, XR, YR and the transient state as they are found. -/
def State.datapath (s : State) : Datapath :=
  { cur := s.cur.toNat, xr := s.xr, yr := s.yr, softFails := 0, tr := s.tr }

/-- ReadBit() (20_memory.md R58). -/
def readBit (e : Env) (d : Datapath) : Bit × Datapath := (e.resv.read d.cur, { d with cur := d.cur + 1 })

/-- ReadBits(n): n bits, the first read the most significant (20_memory.md R59). -/
def readBits (e : Env) : Nat → Datapath → Nat × Datapath
  | 0, d => (0, d)
  | n + 1, d =>
    let r := readBits e n d
    let b := readBit e r.2
    (2 * r.1 + b.1.toNat, b.2)

/-! ### The tree ROM and the band port -/

/-- The cells that the spec gives: ROM(T32, 0..9) (40_catalog.md R106). -/
def knownT32 : List (BitVec 16) :=
  [0x0201, 0x0000, 0x0801, 0x0401, 0x0201, 0x0008, 0x0004, 0x0201, 0x0001, 0x0002]

/-- ROM(tree, i) (20_memory.md R55): a cell the spec gives, a cell the parameters list, or a free value (log 1). -/
def rom (p : Params) (tree : TreeId) (i : Nat) : BitVec 16 :=
  if tree = .t32 ∧ i < knownT32.length then knownT32.getD i 0
  else (p.treeRom.lookup (tree, i)).getD (Config.treeRom tree i)

/-- The cell of a descriptor's tree. A descriptor without a tree is empty, and no cell of it is read (R121). -/
def cellAt (p : Params) (desc : Descriptor) (i : Nat) : BitVec 16 :=
  match desc.tree with
  | some tree => rom p tree i
  | none => 0

/-- SFB(sr, n) (20_memory.md R62): a band start the parameters list, or a free value (log 1). -/
def sfb (p : Params) (sr : BitVec 4) (n : Nat) : BitVec 16 :=
  (p.sfb.lookup (sr, n)).getD (Config.sfb sr n)

/-! ### The spectral memory -/

/-- SPEC[i] <- v stores v[15:0] (20_memory.md R56). No command writes outside 0..575 (43_granule_decoder.md R167). -/
def SpecMem.store (m : SpecMem) (i : Nat) (v : Int) : SpecMem :=
  if h : i < Config.numLines then m.set i (BitVec.ofInt 16 v) h else m

/-- SPEC[i], with 0 for an index that does not exist. -/
def SpecMem.line (m : SpecMem) (i : Nat) : BitVec 16 := m[i]?.getD 0

/-- SPEC[i] <- 0 for every i from `pos` to 575 (43_granule_decoder.md R175). -/
def SpecMem.zeroFrom (m : SpecMem) (pos : Nat) : SpecMem :=
  ⟨((m.toList.take pos ++ List.replicate Config.numLines 0).take Config.numLines).toArray, by simp⟩

/-! ### Conditions -/

/-- raise <Condition>(): the sticky STATUS bit is set and execution goes on (60_exceptions.md R201). -/
def raise (c : Condition) (s : State) : State :=
  match c with
  | .softFail => { s with status := { s.status with softFail := true } }
  | .rollback => { s with status := { s.status with rollback := true } }
  | .illegalCmd => { s with status := { s.status with illegalCmd := true } }
  | .busyWrite => { s with status := { s.status with busyWrite := true } }

/-- An illegal command sets ILLEGAL_CMD and DONE and changes nothing else (30_encoding.md R81, R84). -/
def illegalCommand (s : State) : State :=
  let t := raise .illegalCmd s
  { t with status := { t.status with done := true } }

/-! ### A command's life -/

/-- Acceptance of a legal command: LOP and LTAB are latched, DONE is cleared and PHASE is RUN (30_encoding.md R81). Of the
new command no raise shows yet (log 8). -/
def accept (op : Op) (t : BitVec 6) (s : State) : State :=
  { s with
    phase := .run op t
    status := { s.status with done := false }
    shownSoft := 0
    shownRollback := false }

/-- Completion: PHASE is IDLE, so BUSY reads 0, and DONE is 1 (10_state.md R38). In IDLE the transient state is
unspecified: a free value (R39, U19, log 6). No raise of a running command shows any more (log 8). -/
def complete (s : State) : State :=
  { s with
    phase := .idle
    status := { s.status with done := true }
    tr := Transient.free s.draws
    draws := s.draws + 1
    shownSoft := 0
    shownRollback := false }

/-- The sticky bits that a command's run sets: SOFTFAIL where it raised SoftFail more often than STATUS has shown
already, ROLLBACK where it raised Rollback and STATUS has not shown it (60_exceptions.md R201, R202, log 8). -/
def raiseAll (r : Raises) (s : State) : State :=
  let t := if s.shownSoft < r.softFails then raise .softFail s else s
  if r.rollback ∧ ¬ s.shownRollback then raise .rollback t else t

/-- A run's results in the state: the cursor, XR, YR, the transient state and what it raised. -/
def writeBack (d : Datapath) (rollback : Bool) (s : State) : State :=
  raiseAll { softFails := d.softFails, rollback := rollback }
    { s with cur := BitVec.ofNat 32 d.cur, xr := d.xr, yr := d.yr, tr := d.tr }

/-- RES_X, RES_Y, RES_V and RES_W (10_state.md R35). -/
def setRes (x y v w : Word) (s : State) : State := { s with resX := x, resY := y, resV := v, resW := w }

/-- The end of a command whose reads carried the cursor as far as `peak`: it completes, or the model refuses it where
the cursor went past 2^32 - 1 (70_reset_and_hazards.md R234, log 15). -/
def retire (peak : Nat) (s : State) : Host.Outcome State Fault Refusal :=
  if peak ≤ Config.maxPosition then .next (complete s) else .refused .positionRange

end Sys2Proof.Machine
end

