-- ==== Sys2Proof/Machine/Operands.lean ====
section
/-! DEFINITION. The operands of the commands: the descriptor that a table index selects (40_catalog.md R100 to R105), the
fields of a tree cell (30_encoding.md R87, R88), and the region boundaries and tables that a granule's side information
selects (43_granule_decoder.md R163 to R169). -/

namespace Sys2Proof.Machine

/-! ### The catalog -/

/-- One row of R101: the tree, and the treeLength and linBits where R101 marks them (S), stated by the source. Where it
marks them (G) or (D) they are parameters, and the row holds none (00_scope.md R8). -/
structure CatalogRow where
  tree : Option TreeId
  treeLength : Option (Fin 513)
  linBits : Option (Fin 14)
deriving DecidableEq, Repr

/-- An empty index: 0, 4 and 14 (R104). -/
def CatalogRow.empty : CatalogRow := ⟨none, some 0, none⟩

/-- An index whose treeLength and linBits are (G) or (D). -/
def CatalogRow.general (t : TreeId) : CatalogRow := ⟨some t, none, none⟩

/-- The rows of R101 for the indices 0 to 15. -/
def catalogRowsTo15 : List CatalogRow :=
  [.empty, .general .t1, .general .t2, .general .t3, .empty, .general .t5, .general .t6, .general .t7,
   .general .t8, .general .t9, .general .t10, .general .t11, .general .t12, .general .t13, .empty, .general .t15]

/-- The rows of R101 for the indices 16 to 23: the shared tree T16, linBits (D). -/
def catalogRowsTo23 : List CatalogRow := List.replicate 8 ⟨some .t16, some 511, none⟩

/-- The rows of R101 for the indices 24 to 31: the shared tree T24, linBits (S). -/
def catalogRowsTo31 : List CatalogRow :=
  ([4, 5, 6, 7, 8, 9, 11, 13] : List (Fin 14)).map fun n => ⟨some .t24, some 512, some n⟩

/-- The rows of R101 for the quadruple indices 32 and 33. -/
def catalogRowsTo33 : List CatalogRow := [⟨some .t32, some 31, some 0⟩, ⟨some .t33, some 31, some 0⟩]

/-- The rows of R101, index 0 first. -/
def catalogRows : List CatalogRow := catalogRowsTo15 ++ catalogRowsTo23 ++ catalogRowsTo31 ++ catalogRowsTo33

/-- CATALOG[t] (R100, R101). An index above 33 is never presented (R100); the empty row stands for it (log 19). The
parameter DESC_TREE_LEN may be 0 for a (G) index, and that index is then empty: DESIGN CHOICE, log 25. -/
def catalog (p : Params) (t : Nat) : Descriptor :=
  let row := catalogRows.getD t .empty
  { tree := row.tree
    treeLength := row.treeLength.getD (p.descTreeLen[t]?.getD 0)
    linBits := row.linBits.getD (p.descLinBits[t]?.getD 0) }

/-- The parameters keep R104: no index but 0, 4 and 14 is empty. Neither a state nor the invariant asks for it: a machine
whose parameters break it is admitted (DESIGN CHOICE, log 25). -/
abbrev Params.wf (p : Params) : Prop :=
  ∀ t, t < Config.numTables → ((catalog p t).treeLength.val = 0 ↔ (t = 0 ∨ t = 4 ∨ t = 14))

/-- The grammar tag of an index: quadruple above 31 (R105, 42_symbol_reconstructor.md R140). -/
def isQuad (t : Nat) : Bool := Config.quadThreshold < t

/-! ### The fields of a tree cell -/

/-- H, the high byte of a cell (30_encoding.md R87). -/
def cellHigh (c : BitVec 16) : BitVec 8 := c.extractLsb' 8 8

/-- L, the low byte of a cell (R87). -/
def cellLow (c : BitVec 16) : BitVec 8 := c.extractLsb' 0 8

/-- A cell is a leaf when its high byte is zero (R87). -/
def isLeaf (c : BitVec 16) : Bool := cellHigh c = 0

/-- A leaf's x, bits 7:4 (R87). -/
def leafX (c : BitVec 16) : BitVec 4 := c.extractLsb' 4 4

/-- A leaf's y, bits 3:0 (R87). -/
def leafY (c : BitVec 16) : BitVec 4 := c.extractLsb' 0 4

/-- The offset byte that a bit selects: L on 1, H on 0 (R87, 41_tree_walker.md R124). -/
def sideByte (b : Bit) (c : BitVec 16) : BitVec 8 := if b then cellLow c else cellHigh c

/-! ### A granule's side information -/

/-- END + 1 = PART2_START + PART23_LEN, the first position after the granule (43_granule_decoder.md R163, R176). -/
def granuleEnd (s : State) : Nat := s.part2Start.toNat + s.part23Len.toNat

/-- A short block: WS = 1 and BT = 2 (10_state.md R31, 43_granule_decoder.md R164). -/
def isShort (s : State) : Bool := s.ws = 1 ∧ s.bt = 2

/-- RS1: 36 for a short block, else SFB(SR_INDEX, R0C + 1) (R164). -/
def regionStart1 (s : State) : BitVec 16 :=
  if isShort s then BitVec.ofNat 16 Config.shortR1 else sfb s.params s.srIndex (s.r0c.toNat + 1)

/-- RS2: 576 for a short block, else SFB(SR_INDEX, R0C + R1C + 2) (R164). -/
def regionStart2 (s : State) : BitVec 16 :=
  if isShort s then BitVec.ofNat 16 Config.numLines else sfb s.params s.srIndex (s.r0c.toNat + s.r1c.toNat + 2)

/-- BIGEND = min(2 · BIG_VALUES, 576) (R165). -/
def bigEnd (s : State) : Nat := min (2 * s.bigValues.toNat) Config.numLines

/-- tableFor(POS): the pair table of the region that a line lies in (R166). -/
def tableFor (s : State) (rs1 rs2 : BitVec 16) (pos : Nat) : Nat :=
  if pos < rs1.toNat then s.ts0.toNat
  else if pos < rs2.toNat then s.ts1.toNat
  else s.ts2.toNat

/-- The quadruple table 32 + C1 (R169). -/
def count1Table (s : State) : Nat := Config.quadBase + s.c1.toNat

end Sys2Proof.Machine
end

