-- ==== Sys2Proof/Machine/Catalog.lean ====
section
/-! DEFINITION. DESC: read a descriptor (40_catalog.md R107). -/

namespace Sys2Proof.Machine

/-- DESC t (R107): RES_X = treeLength, RES_Y = linBits, RES_V = the grammar tag, RES_W = 0, no reservoir transaction.
A TABLE above 33 is an illegal command (30_encoding.md R84, log 18). -/
def execDesc (t : BitVec 6) (s : State) : Host.Outcome State Fault Refusal :=
  if tableInRange t then
    let d := catalog s.params t.toNat
    .next (complete (setRes (BitVec.ofNat 32 d.treeLength.val) (BitVec.ofNat 32 d.linBits.val)
      (if isQuad t.toNat then 1 else 0) 0 s))
  else .next (illegalCommand s)

end Sys2Proof.Machine
end

