-- ==== Sys2Proof/Machine/Walker.lean ====
section
/-! DEFINITION. The Tree Walker and the WALK command (41_tree_walker.md R120 to R129). -/

namespace Sys2Proof.Machine

/-- Bound on the steps of one offset resolution: after three escapes IDX is at least 750, which no tree reaches
(41_tree_walker.md R127, log 20). -/
def maxChain : Nat := 3

/-- Offset resolution (R122 inner loop, R124): add the side's byte to IDX; a byte below 250 ends it, and an escape reads
the cell at the new IDX, unless IDX has reached treeLength. Answers whether it ended without meeting the chain bound. -/
def resolve (e : Env) (desc : Descriptor) (b : Bit) : Nat → Datapath → Bool × Datapath
  | 0, d => (false, d)
  | n + 1, d =>
    let off := sideByte b d.tr.cell
    let d := { d with tr := { d.tr with idx := d.tr.idx + off.setWidth 10 } }
    if off.toNat < Config.escThreshold then (true, d)
    else if desc.treeLength.val ≤ d.tr.idx.toNat then (false, d)
    else resolve e desc b n { d with tr := { d.tr with cell := cellAt e.params desc d.tr.idx.toNat } }

/-- The end of a walk without a leaf (R125): raise SoftFail, and the last leaf's nibbles stand. -/
def softFail (d : Datapath) : Walk :=
  { x := d.xr, y := d.yr, ok := false, dp := { d with softFails := d.softFails + 1 } }

/-- The end of a walk at a leaf (R123): XR and YR take the leaf's nibbles. -/
def leaf (d : Datapath) : Walk :=
  { x := leafX d.tr.cell, y := leafY d.tr.cell, ok := true, dp := { d with xr := leafX d.tr.cell, yr := leafY d.tr.cell } }

/-- The iterations of R122 with a remaining BUDGET: leaf test, bit read, offset resolution, budget and bound test. -/
def walkLoop (e : Env) (desc : Descriptor) : Nat → Datapath → Walk
  | 0, d => softFail d
  | n + 1, d =>
    let d := { d with tr := { d.tr with cell := cellAt e.params desc d.tr.idx.toNat } }
    if isLeaf d.tr.cell then leaf d
    else
      let b := readBit e d
      let r := resolve e desc b.1 maxChain b.2
      if r.1 then
        let d := { r.2 with tr := { r.2.tr with budget := BitVec.ofNat 6 n } }
        if n = 0 ∨ desc.treeLength.val ≤ d.tr.idx.toNat then softFail d else walkLoop e desc n d
      else softFail r.2

/-- WalkTree(t) (R122): an empty table reads no bit and clears XR and YR (R121). -/
def walkTree (e : Env) (t : Nat) (d : Datapath) : Walk :=
  let desc := catalog e.params t
  if desc.treeLength.val = 0 then { x := 0, y := 0, ok := true, dp := { d with xr := 0, yr := 0 } }
  else walkLoop e desc Config.walkBudget
    { d with tr := { d.tr with idx := 0, budget := BitVec.ofNat 6 Config.walkBudget } }

/-- WALK t (R129): the raw nibbles in RES_X and RES_Y, no sign bits and no linbits.
A TABLE above 33 is an illegal command (30_encoding.md R84, log 18). -/
def execWalk (t : BitVec 6) (s : State) : Host.Outcome State Fault Refusal :=
  if tableInRange t then
    let r := walkTree s.env t.toNat s.datapath
    retire r.dp.cur (setRes (r.x.setWidth 32) (r.y.setWidth 32) 0 0 (writeBack r.dp false s))
  else .next (illegalCommand s)

end Sys2Proof.Machine
end

