-- ==== Sys2Proof/Machine/Symbol.lean ====
section
/-! DEFINITION. The Symbol Reconstructor and the SYM command (42_symbol_reconstructor.md R140 to R147). -/

namespace Sys2Proof.Machine

/-- The sign of a magnitude (R142, R144): a nonzero one reads one bit, and is negated where that bit is 1; a zero one
reads none. -/
def readSign (e : Env) (m : Nat) (d : Datapath) : Int × Datapath :=
  if m = 0 then (0, d)
  else
    let b := readBit e d
    (if b.1 then -(m : Int) else (m : Int), b.2)

/-- The linbits escape (R143): a magnitude of 15 in a table with linBits > 0 reads linBits more bits and adds them. -/
def readEscape (e : Env) (linBits : Nat) (m : Nat) (d : Datapath) : Nat × Datapath :=
  if 0 < linBits ∧ m = 15 then
    let k := readBits e linBits d
    (m + k.1, k.2)
  else (m, d)

/-- One value of a pair: its escape, then its sign (R143 to R145). -/
def readPairValue (e : Env) (linBits : Nat) (m : Nat) (d : Datapath) : Int × Datapath :=
  let k := readEscape e linBits m d
  readSign e k.1 k.2

/-- The pair grammar (R143 to R145): x-escape, x-sign, y-escape, y-sign; v = w = 0. -/
def pairSymbol (e : Env) (linBits : Nat) (rx ry : BitVec 4) (d : Datapath) : Symbol :=
  let x := readPairValue e linBits rx.toNat d
  let y := readPairValue e linBits ry.toNat x.2
  { x := x.1, y := y.1, v := 0, w := 0, dp := y.2 }

/-- The quadruple grammar (R141, R142): the magnitudes are the bits of ry, and the signs are read in the order v, w, x, y. -/
def quadSymbol (e : Env) (ry : BitVec 4) (d : Datapath) : Symbol :=
  let v := readSign e (ry.getLsbD 3).toNat d
  let w := readSign e (ry.getLsbD 2).toNat v.2
  let x := readSign e (ry.getLsbD 1).toNat w.2
  let y := readSign e (ry.getLsbD 0).toNat x.2
  { x := x.1, y := y.1, v := v.1, w := w.1, dp := y.2 }

/-- DecodeSymbol(t) (R146). A soft-failed walk is reconstructed like any other (41_tree_walker.md R128). -/
def decodeSymbol (e : Env) (t : Nat) (d : Datapath) : Symbol :=
  let desc := catalog e.params t
  if desc.treeLength.val = 0 then { x := 0, y := 0, v := 0, w := 0, dp := { d with xr := 0, yr := 0 } }
  else
    let r := walkTree e t d
    if isQuad t then quadSymbol e r.y r.dp else pairSymbol e desc.linBits.val r.x r.y r.dp

/-- SYM t (R147): the signed outputs in RES_X, RES_Y, RES_V and RES_W, sign-extended to 32 bits.
A TABLE above 33 is an illegal command (30_encoding.md R84, log 18). -/
def execSym (t : BitVec 6) (s : State) : Host.Outcome State Fault Refusal :=
  if tableInRange t then
    let r := decodeSymbol s.env t.toNat s.datapath
    retire r.dp.cur (setRes (BitVec.ofInt 32 r.x) (BitVec.ofInt 32 r.y) (BitVec.ofInt 32 r.v) (BitVec.ofInt 32 r.w)
      (writeBack r.dp false s))
  else .next (illegalCommand s)

end Sys2Proof.Machine
end

