-- ==== Sys2Proof/Machine/Granule.lean ====
section
/-! DEFINITION. The Region/Granule Decoder and the GRANULE command (43_granule_decoder.md R160 to R180). The side-information
registers cannot change while a command runs (R160), so every phase reads them from the state `s`. -/

namespace Sys2Proof.Machine

/-- Bound on the pairs of one granule (70_reset_and_hazards.md R246). -/
def maxPairs : Nat := 288

/-- Bound on the quadruples of one granule (70_reset_and_hazards.md R246). -/
def maxQuads : Nat := 144

/-- G_REGION (R163, R164): END, RS1, RS2, and POS at the start of the big-values pass. -/
def granuleStart (s : State) : Gran :=
  { dp := { s.datapath with
      tr := { s.tr with
        endPos := BitVec.ofNat 33 (granuleEnd s - 1)
        rs1 := regionStart1 s
        rs2 := regionStart2 s
        pos := 0 } }
    spec := s.spec }

/-- One pair of G_BIG (R167): x at POS, y at POS + 1. -/
def bigStep (s : State) (g : Gran) : Gran :=
  let pos := g.dp.tr.pos.toNat
  let t := tableFor s g.dp.tr.rs1 g.dp.tr.rs2 pos
  let r := decodeSymbol s.env t { g.dp with tr := { g.dp.tr with tbl := BitVec.ofNat 6 t } }
  { dp := { r.dp with tr := { r.dp.tr with pos := r.dp.tr.pos + 2 } }
    spec := (g.spec.store pos r.x).store (pos + 1) r.y }

/-- G_BIG (R167): while POS < BIGEND. -/
def bigPass (s : State) : Nat → Gran → Gran
  | 0, g => g
  | n + 1, g => if g.dp.tr.pos.toNat < bigEnd s then bigPass s n (bigStep s g) else g

/-- One quadruple of G_SMALL (R170, R171): v, w, x, y at POS to POS + 3. -/
def smallStep (s : State) (g : Gran) : Gran :=
  let pos := g.dp.tr.pos.toNat
  let t := count1Table s
  let r := decodeSymbol s.env t { g.dp with tr := { g.dp.tr with tbl := BitVec.ofNat 6 t } }
  { dp := { r.dp with tr := { r.dp.tr with pos := r.dp.tr.pos + 4 } }
    spec := (((g.spec.store pos r.v).store (pos + 1) r.w).store (pos + 2) r.x).store (pos + 3) r.y }

/-- The condition before each quadruple: POS ≤ 572 and GetPos() ≤ END (R168). -/
def smallGoes (g : Gran) : Bool := g.dp.tr.pos.toNat ≤ 572 ∧ g.dp.cur ≤ g.dp.tr.endPos.toNat

/-- G_SMALL (R170). -/
def smallPass (s : State) : Nat → Gran → Gran
  | 0, g => g
  | n + 1, g => if smallGoes g then smallPass s n (smallStep s g) else g

/-- Both passes, from G_REGION to the end of G_SMALL. -/
def granulePasses (s : State) : Gran := smallPass s maxQuads (bigPass s maxPairs (granuleStart s))

/-- The overrun condition of G_FIX: GetPos() > END + 1 (R173). -/
def overran (g : Gran) : Bool := g.dp.tr.endPos.toNat + 1 < g.dp.cur

/-- POS after G_FIX: max(POS − 4, 0) where the overrun condition holds (R174). -/
def fixedPos (g : Gran) : Nat := if overran g then g.dp.tr.pos.toNat - 4 else g.dp.tr.pos.toNat

/-- GRANULE (R180). PART23_LEN = 0 zeroes SPEC and LINECOUNT and touches nothing else (R162). Otherwise the passes, the
overrun correction, the zero fill, the reposition and the line count, all within the position range (R234, log 15). -/
def execGranule (s : State) : Host.Outcome State Fault Refusal :=
  if s.part23Len = 0 then .next (complete { s with spec := s.spec.zeroFrom 0, lineCount := 0 })
  else if Config.maxPosition < granuleEnd s then .refused .positionRange
  else
    let g := granulePasses s
    retire g.dp.cur
      { writeBack { g.dp with cur := granuleEnd s } (overran g) s with
        spec := g.spec.zeroFrom (fixedPos g)
        region1Start := g.dp.tr.rs1
        region2Start := g.dp.tr.rs2
        lineCount := BitVec.ofNat 10 (fixedPos g) }

end Sys2Proof.Machine
end

