-- ==== Sys2Proof/Machine/Dispatch.lean ====
section
/-! DEFINITION. The meaning of each command: one arm for each constructor of Instr (30_encoding.md R82). -/

namespace Sys2Proof.Machine

def exec (i : Instr) (s : State) : Host.Outcome State Fault Refusal :=
  match i with
  | .granule => Sys2Proof.Machine.execGranule s
  | .sym t => Sys2Proof.Machine.execSym t s
  | .walk t => Sys2Proof.Machine.execWalk t s
  | .desc t => Sys2Proof.Machine.execDesc t s

end Sys2Proof.Machine
end

