-- ==== Sys2Proof/Machine/Flags.lean ====
section
/-! DEFINITION. The STATUS register as the host sees it, and the interrupt output (10_state.md R23, R37, R38;
60_exceptions.md R205). HTW has no condition codes (R37). -/

namespace Sys2Proof.Machine

/-- STATUS.BUSY reads 1 exactly when PHASE is not IDLE (10_state.md R38). -/
def State.busy (s : State) : Bool := s.phase ≠ .idle

/-- STATUS as one word: BUSY, DONE, SOFTFAIL, ROLLBACK, ILLEGAL_CMD, BUSY_WRITE in bits 0 to 5, bits 31:6 zero (R23). -/
def statusWord (s : State) : Word :=
  (0#26 ++ BitVec.ofBool s.status.busyWrite ++ BitVec.ofBool s.status.illegalCmd ++ BitVec.ofBool s.status.rollback
    ++ BitVec.ofBool s.status.softFail ++ BitVec.ofBool s.status.done ++ BitVec.ofBool s.busy : BitVec 32)

/-- A write to STATUS clears each W1C bit written as 1; BUSY and the reserved bits ignore it (R23, 20_memory.md R53). -/
def writeStatus (v : Word) (s : State) : State :=
  { s with
    status :=
      { done := s.status.done && !v.getLsbD 1
        softFail := s.status.softFail && !v.getLsbD 2
        rollback := s.status.rollback && !v.getLsbD 3
        illegalCmd := s.status.illegalCmd && !v.getLsbD 4
        busyWrite := s.status.busyWrite && !v.getLsbD 5 } }

/-- irq = CTRL.IRQ_EN AND STATUS.DONE, evaluated continuously (60_exceptions.md R205). -/
def State.irq (s : State) : Bool := s.irqEn && s.status.done

/-- The code of a condition: its STATUS bit number (60_exceptions.md R202). -/
def Condition.code : Condition → Nat
  | .softFail => 2
  | .rollback => 3
  | .illegalCmd => 4
  | .busyWrite => 5

end Sys2Proof.Machine
end

