-- ==== Sys2Proof/Machine/HostPort.lean ====
section
/-! DEFINITION. The host window: its map (20_memory.md R50), reads and writes of its registers (R53, R56, 10_state.md R22 to
R36), and what both do while BUSY = 1 (70_reset_and_hazards.md R242 to R244). -/

namespace Sys2Proof.Machine

/-- The size of the window in bytes (20_memory.md R50). -/
def windowBytes : Nat := 0x2000

/-- The byte offset of a register (R50); SPEC[i] is at 0x1000 + 4·i (R56). -/
def Reg.offset : Reg → Nat
  | .ctrl => 0x000
  | .status => 0x004
  | .cmd => 0x008
  | .part2Start => 0x010
  | .part23Len => 0x014
  | .bigValues => 0x018
  | .tableSelect => 0x01C
  | .count1Sel => 0x020
  | .regionCount => 0x024
  | .blockCfg => 0x028
  | .srIndex => 0x02C
  | .lineCount => 0x030
  | .region1Start => 0x034
  | .region2Start => 0x038
  | .resX => 0x040
  | .resY => 0x044
  | .resV => 0x048
  | .resW => 0x04C
  | .spec i => 0x1000 + 4 * i.val

/-- The register at an aligned offset below SPEC, or none where the offset is reserved (R50). -/
def Reg.ofLowOffset : Nat → Option Reg
  | 0x000 => some .ctrl
  | 0x004 => some .status
  | 0x008 => some .cmd
  | 0x010 => some .part2Start
  | 0x014 => some .part23Len
  | 0x018 => some .bigValues
  | 0x01C => some .tableSelect
  | 0x020 => some .count1Sel
  | 0x024 => some .regionCount
  | 0x028 => some .blockCfg
  | 0x02C => some .srIndex
  | 0x030 => some .lineCount
  | 0x034 => some .region1Start
  | 0x038 => some .region2Start
  | 0x040 => some .resX
  | 0x044 => some .resY
  | 0x048 => some .resV
  | 0x04C => some .resW
  | _ => none

/-- The register at an aligned offset, or none where the offset is reserved (R50). -/
def Reg.ofOffset (a : Nat) : Option Reg :=
  if h : 0x1000 ≤ a ∧ a < 0x1900 then some (.spec ⟨(a - 0x1000) / 4, by unfold Config.numLines; omega⟩)
  else Reg.ofLowOffset a

/-- The read-write registers of R50. -/
def Reg.isRW : Reg → Bool
  | .ctrl | .part2Start | .part23Len | .bigValues | .tableSelect | .count1Sel | .regionCount | .blockCfg | .srIndex => true
  | .status | .cmd | .lineCount | .region1Start | .region2Start | .resX | .resY | .resV | .resW | .spec _ => false

/-- The registers whose reads return unspecified values while BUSY = 1 (70_reset_and_hazards.md R244). -/
def Reg.isResult : Reg → Bool
  | .lineCount | .region1Start | .region2Start | .resX | .resY | .resV | .resW | .spec _ => true
  | .ctrl | .status | .cmd | .part2Start | .part23Len | .bigValues | .tableSelect | .count1Sel | .regionCount
  | .blockCfg | .srIndex => false

/-- TABLE_SELECT as one word: TS0 in bits 4:0, TS1 in 12:8, TS2 in 20:16 (10_state.md R28). -/
def tableSelectWord (s : State) : Word := (0#11 ++ s.ts2 ++ 0#3 ++ s.ts1 ++ 0#3 ++ s.ts0 : BitVec 32)

/-- REGION_COUNT as one word: R0C in bits 4:0, R1C in 12:8 (R30). -/
def regionCountWord (s : State) : Word := (0#19 ++ s.r1c ++ 0#3 ++ s.r0c : BitVec 32)

/-- BLOCK_CFG as one word: WS in bit 0, BT in bits 9:8 (R31). -/
def blockCfgWord (s : State) : Word := (0#22 ++ s.bt ++ 0#7 ++ s.ws : BitVec 32)

/-- What a register reads as: reserved bits 0, CMD 0, SPEC sign-extended (10_state.md R22 to R35, 20_memory.md R56). -/
def readReg (r : Reg) (s : State) : Word :=
  match r with
  | .ctrl => (BitVec.ofBool s.irqEn).setWidth 32
  | .status => statusWord s
  | .cmd => 0
  | .part2Start => s.part2Start
  | .part23Len => s.part23Len.setWidth 32
  | .bigValues => s.bigValues.setWidth 32
  | .tableSelect => tableSelectWord s
  | .count1Sel => s.c1.setWidth 32
  | .regionCount => regionCountWord s
  | .blockCfg => blockCfgWord s
  | .srIndex => s.srIndex.setWidth 32
  | .lineCount => s.lineCount.setWidth 32
  | .region1Start => s.region1Start.setWidth 32
  | .region2Start => s.region2Start.setWidth 32
  | .resX => s.resX
  | .resY => s.resY
  | .resV => s.resV
  | .resW => s.resW
  | .spec i => s.spec[i].signExtend 32

/-- A write to a read-write register stores its named fields and ignores the reserved bits (20_memory.md R53). No other
register is written here. -/
def writeReg (r : Reg) (v : Word) (s : State) : State :=
  match r with
  | .ctrl => { s with irqEn := v.getLsbD 0 }
  | .part2Start => { s with part2Start := v }
  | .part23Len => { s with part23Len := v.extractLsb' 0 12 }
  | .bigValues => { s with bigValues := v.extractLsb' 0 9 }
  | .tableSelect => { s with ts0 := v.extractLsb' 0 5, ts1 := v.extractLsb' 8 5, ts2 := v.extractLsb' 16 5 }
  | .count1Sel => { s with c1 := v.extractLsb' 0 1 }
  | .regionCount => { s with r0c := v.extractLsb' 0 5, r1c := v.extractLsb' 8 5 }
  | .blockCfg => { s with ws := v.extractLsb' 0 1, bt := v.extractLsb' 8 2 }
  | .srIndex => { s with srIndex := v.extractLsb' 0 4 }
  | .status | .cmd | .lineCount | .region1Start | .region2Start | .resX | .resY | .resV | .resW | .spec _ => s

/-- A write to CMD while BUSY = 0: acceptance, or an illegal command (30_encoding.md R81). -/
def hostCommand (w : Word) (s : State) : State :=
  match decode w with
  | .command i => accept i.op (tableField w) s
  | .illegal _ => illegalCommand s

/-- The host receives the value of a read. HTW's own state does not change (20_memory.md R53), log 11. -/
def answer (v : Word) (s : State) : State := { s with answers := v :: s.answers }

/-- A read of an aligned offset of the window. Reserved offsets read 0 (R53); a result register and SPEC read as a free
value while BUSY = 1 (70_reset_and_hazards.md R244, log 13); all else reads its current value (R243). -/
def hostRead (addr : Nat) (s : State) : State :=
  match Reg.ofOffset addr with
  | none => answer 0 s
  | some r =>
    if s.busy ∧ r.isResult then answer (Config.busyRead s.draws) { s with draws := s.draws + 1 }
    else answer (readReg r s) s

/-- A write to an aligned offset of the window. STATUS takes its W1C bits at any time; CMD and the read-write registers
ignore a write while BUSY = 1 and set BUSY_WRITE; read-only registers, SPEC and reserved offsets ignore every write
(20_memory.md R53, 70_reset_and_hazards.md R242). -/
def hostWrite (addr : Nat) (v : Word) (s : State) : State :=
  match Reg.ofOffset addr with
  | none => s
  | some r =>
    if r = .status then writeStatus v s
    else if r = .cmd then (if s.busy then raise .busyWrite s else hostCommand v s)
    else if r.isRW then (if s.busy then raise .busyWrite s else writeReg r v s)
    else s

/-- One host access: 32 bits wide and 4-byte aligned (20_memory.md R51), inside the window (R50). -/
def hostAccess (a : Access) (s : State) : Host.Outcome State Fault Refusal :=
  match a with
  | .read addr n =>
    if n ≠ 4 ∨ addr % 4 ≠ 0 then .refused (.accessShape addr n)
    else if windowBytes ≤ addr then .fault (.outsideWindow addr)
    else .next (hostRead addr s)
  | .write addr n v =>
    if n ≠ 4 ∨ addr % 4 ≠ 0 then .refused (.accessShape addr n)
    else if windowBytes ≤ addr then .fault (.outsideWindow addr)
    else .next (hostWrite addr v s)

end Sys2Proof.Machine
end

