-- ==== Sys2Proof/Machine/Agents.lean ====
section
/-! DEFINITION. The agents that move HTW: its datapath, the host, the reservoir's owner and the platform's reset. Which one
moves next is the head of State.inputs (log 9). -/

namespace Sys2Proof.Machine

/-- The datapath's turn: the latched command runs and completes, in one step (70_reset_and_hazards.md R245, log 7). In IDLE
there is nothing to run. -/
def datapathTurn (s : State) : Host.Outcome State Fault Refusal :=
  match s.phase with
  | .idle => .next s
  | .run lop ltab => exec (lop.withTable ltab) s

/-- What a command raises in its whole run (60_exceptions.md R202). DESC raises nothing (40_catalog.md R107). -/
def raisesOf (i : Instr) (s : State) : Raises :=
  match i with
  | .granule =>
    if s.part23Len = 0 then { softFails := 0, rollback := false }
    else { softFails := (granulePasses s).dp.softFails, rollback := overran (granulePasses s) }
  | .sym t => { softFails := (decodeSymbol s.env t.toNat s.datapath).dp.softFails, rollback := false }
  | .walk t => { softFails := (walkTree s.env t.toNat s.datapath).dp.softFails, rollback := false }
  | .desc _ => { softFails := 0, rollback := false }

/-- The next sticky condition of the running command shows in STATUS before the command completes: its soft-fails one by
one, and then its rollback (70_reset_and_hazards.md R243, log 8). -/
def raiseShows (s : State) : State :=
  match s.phase with
  | .idle => s
  | .run lop ltab =>
    let r := raisesOf (lop.withTable ltab) s
    if s.shownSoft < r.softFails then raise .softFail { s with shownSoft := s.shownSoft + 1 }
    else if r.rollback ∧ ¬ s.shownRollback then raise .rollback { s with shownRollback := true }
    else s

/-! ### The positions a command may read (70_reset_and_hazards.md R241, R246), log 16 -/

/-- The most bits a walk with table `t` may read: none for an empty table, else WALK_BUDGET (41_tree_walker.md R121, R126). -/
def walkReads (p : Params) (t : Nat) : Nat := if (catalog p t).treeLength.val = 0 then 0 else Config.walkBudget

/-- The most bits a quadruple may read: a code word and four signs (R246). -/
def quadReads : Nat := Config.walkBudget + 4

/-- The most bits a symbol of table `t` may read: none for an empty table, a quadruple's, or a pair's code word and for
each value its escape and its sign (42_symbol_reconstructor.md R146, 70_reset_and_hazards.md R246). -/
def symbolReads (p : Params) (t : Nat) : Nat :=
  if (catalog p t).treeLength.val = 0 then 0
  else if isQuad t then quadReads
  else Config.walkBudget + 2 * ((catalog p t).linBits.val + 1)

/-- The most bits that the first `n` pairs of a granule may read, each with the table of its region
(43_granule_decoder.md R166, R167). -/
def pairsReads (s : State) : Nat → Nat
  | 0 => 0
  | n + 1 => pairsReads s n + symbolReads s.params (tableFor s (regionStart1 s) (regionStart2 s) (2 * n))

/-- The first position that the pairs of a granule cannot read. -/
def pairsReach (s : State) : Nat := s.cur.toNat + pairsReads s (bigEnd s / 2)

/-- The first position that a GRANULE cannot read: none is read where PART23_LEN = 0 (R162), and no quadruple where the
cursor is beyond END from the start or POS beyond 572 (R168, R180). The last quadruple starts at END or before it. -/
def granuleReach (s : State) : Nat :=
  if s.part23Len = 0 then s.cur.toNat
  else if granuleEnd s ≤ s.cur.toNat then pairsReach s
  else
    max (pairsReach s)
      (min (pairsReach s + quadReads * ((Config.numLines - bigEnd s) / 4)) (granuleEnd s - 1 + quadReads))

/-- The first position from the cursor on that a command cannot read, whatever bits the reservoir holds. -/
def reach (i : Instr) (s : State) : Nat :=
  match i with
  | .granule => granuleReach s
  | .sym t => s.cur.toNat + symbolReads s.params t.toNat
  | .walk t => s.cur.toNat + walkReads s.params t.toNat
  | .desc _ => s.cur.toNat

/-- The reservoir's owner positions the cursor. Not while BUSY = 1 (70_reset_and_hazards.md R233, R241). -/
def moveCursor (p : BitVec 32) (s : State) : Host.Outcome State Fault Refusal :=
  if s.busy then .refused .cursorMovedWhileBusy else .next { s with cur := p }

/-- The positions that the running command may read: from the cursor on, up to its reach (R241, log 16). -/
def mayRead (s : State) (p : Nat) : Bool :=
  match s.phase with
  | .idle => false
  | .run lop ltab => s.cur.toNat ≤ p ∧ p < reach (lop.withTable ltab) s

/-- The reservoir's owner buffers or drops the bit at a position. While BUSY = 1 it may not change the bits that HTW may
read (R241). -/
def setBit (p : BitVec 32) (b : Option Bit) (s : State) : Host.Outcome State Fault Refusal :=
  if mayRead s p.toNat ∧ s.resv.lookup p.toNat ≠ b then .refused (.bitChangedWhileBusy p.toNat)
  else .next { s with resv := s.resv.set p.toNat b }

/-- Reset (10_state.md R43, 70_reset_and_hazards.md R230): it touches neither the reservoir's bits nor the parameters, nor
the cursor, which stays where an abandoned command left it: a free value (U11, log 14). SPEC is unspecified (U1, log 5). -/
def resetMachine (s : State) : State :=
  { State.reset with
    spec := SpecMem.drawn s.draws
    tr := Transient.free s.draws
    cur := if s.busy then Config.abandonedCursor s.draws else s.cur
    resv := s.resv
    params := s.params
    inputs := s.inputs
    answers := s.answers
    draws := s.draws + 1 }

/-- WAITDONE: read STATUS until DONE is 1 (30_encoding.md R92). After a read that finds DONE = 0 the datapath has a turn,
so that the loop ends (70_reset_and_hazards.md R246, log 21). -/
def waitDone (s : State) : State :=
  let t := hostRead Reg.status.offset s
  if s.status.done then t else { t with inputs := .finish :: .waitDone :: t.inputs }

/-- One event, already taken off the schedule. -/
def deliver (e : Event) (s : State) : Host.Outcome State Fault Refusal :=
  match e with
  | .access a => hostAccess a s
  | .waitDone => .next (waitDone s)
  | .moveCursor p => moveCursor p s
  | .setBit p b => setBit p b s
  | .reset => .next (resetMachine s)
  | .raiseShows => .next (raiseShows s)
  | .finish => datapathTurn s

/-- The word that a table row's bits stand for: bits above `nbits` are 0. -/
def tableWord (nbits w : Nat) : Word := BitVec.ofNat 32 (w % 2 ^ nbits)

end Sys2Proof.Machine
end

