-- ==== Sys2Proof/Machine/Step.lean ====
section
/-! DEFINITION. One step of the machine, and how a command comes to be the next one that runs. -/

namespace Sys2Proof.Machine

/-- One step: the next event of the schedule, and with nothing scheduled the datapath's turn (logs 9 and 10). -/
def step (s : State) : Host.Outcome State Fault Refusal :=
  match s.inputs with
  | [] => datapathTurn s
  | e :: rest => deliver e { s with inputs := rest }

/-- The state whose very next step runs the command of a table word (log 9). HTW fetches nothing: PHASE has the part of a
program counter (10_state.md R21), and the command that runs next is the one latched at acceptance (30_encoding.md R81). So
a legal word is accepted and its completion scheduled next; an illegal word, which is never latched, is scheduled as the
host's write to CMD. -/
def State.withFetchWord (s : State) (nbits w : Nat) : State :=
  match decode (tableWord nbits w) with
  | .command i => { accept i.op (tableField (tableWord nbits w)) s with inputs := .finish :: s.inputs }
  | .illegal _ =>
    { s with phase := .idle, inputs := .access (.write Reg.cmd.offset 4 (tableWord nbits w)) :: s.inputs }

end Sys2Proof.Machine
end

