-- ==== Sys2Proof/Safety.lean ====
section
/-! DEFINITION. What the claims mean by a good state and a safe run. -/

namespace Sys2Proof

/-- The invariant that every step keeps: the reservoir's list is in canonical form; a running command is legal
(30_encoding.md R84) and has DONE = 0 (70_reset_and_hazards.md R243); in IDLE no raise of a running command shows (log 8);
and LINECOUNT is even and at most 576 (43_granule_decoder.md R179). -/
structure Machine.State.Inv (s : Machine.State) : Prop where
  memoryCanonical : s.resv.wf
  runningLegal : ∀ op t, s.phase = .run op t → (op.withTable t).wf = true
  runningNotDone : s.busy = true → s.status.done = false
  idleShowsNothing : s.busy = false → s.shownSoft = 0 ∧ s.shownRollback = false
  lineCountBound : s.lineCount.toNat ≤ Config.numLines
  lineCountEven : s.lineCount.toNat % 2 = 0

/-- A run of `k` steps that ends in no fault and no refusal. -/
def RunsSafely (k : Nat) (s : Machine.State) : Prop := ∃ t, core.run k s = .next t

/-- A run is safe when no number of its steps ends in a fault or a refusal. -/
def Safe (s : Machine.State) : Prop := ∀ k, RunsSafely k s

namespace Machine

/-! ### The code words of a tree, said without the walker (30_encoding.md R87, R89; 41_tree_walker.md R124) -/

/-- From cell `i`, the bit `b` leads to cell index `j`: the byte of the bit's side is a literal offset below 250, or a
chained escape to a cell inside the tree whose same-side byte is read next. -/
inductive Leads (cells : Nat → BitVec 16) (len : Nat) (b : Bit) : Nat → Nat → Prop where
  | literal (i : Nat) : (sideByte b (cells i)).toNat < Config.escThreshold →
      Leads cells len b i (i + (sideByte b (cells i)).toNat)
  | escape (i j : Nat) : Config.escThreshold ≤ (sideByte b (cells i)).toNat → i + (sideByte b (cells i)).toNat < len →
      Leads cells len b (i + (sideByte b (cells i)).toNat) j → Leads cells len b i j

/-- The bits `bs` lead from cell `i` to cell `k` through decision nodes, inside the tree. -/
inductive BitsLead (cells : Nat → BitVec 16) (len : Nat) : Nat → List Bit → Nat → Prop where
  | nil (i : Nat) : BitsLead cells len i [] i
  | cons (i j k : Nat) (b : Bit) (bs : List Bit) : isLeaf (cells i) = false → Leads cells len b i j → j < len →
      BitsLead cells len j bs k → BitsLead cells len i (b :: bs) k

/-- The reservoir holds the bits `bs` from position `p` on. -/
def HoldsBits (m : Memory) (p : Nat) (bs : List Bit) : Prop := ∀ i, (h : i < bs.length) → m.read (p + i) = bs[i]

/-- Two reservoirs return the same bits at the positions from `lo` up to, not including, `hi`. -/
def SameBits (m m' : Memory) (lo hi : Nat) : Prop := ∀ p, lo ≤ p → p < hi → m.read p = m'.read p

/-- The number that `n` bits from position `p` on stand for, the first the most significant (20_memory.md R59). -/
def Memory.value (m : Memory) (p n : Nat) : Nat := ∑ k ∈ Finset.range n, (m.read (p + k)).toNat * 2 ^ (n - 1 - k)

/-! ### The registers as the host sees them -/

/-- The bits of a read-write register that hold a named field (10_state.md R22, R25 to R32). -/
def Reg.fieldMask : Reg → Word
  | .ctrl => 0x00000001
  | .part2Start => 0xFFFFFFFF
  | .part23Len => 0x00000FFF
  | .bigValues => 0x000001FF
  | .tableSelect => 0x001F1F1F
  | .count1Sel => 0x00000001
  | .regionCount => 0x00001F1F
  | .blockCfg => 0x00000301
  | .srIndex => 0x0000000F
  | .status | .cmd | .lineCount | .region1Start | .region2Start | .resX | .resY | .resV | .resW | .spec _ => 0

/-- The side information and the control register: what only host writes and reset change (43_granule_decoder.md R160). -/
def SameControl (s t : State) : Prop :=
  t.irqEn = s.irqEn ∧ t.part2Start = s.part2Start ∧ t.part23Len = s.part23Len ∧ t.bigValues = s.bigValues ∧
  t.ts0 = s.ts0 ∧ t.ts1 = s.ts1 ∧ t.ts2 = s.ts2 ∧ t.c1 = s.c1 ∧ t.r0c = s.r0c ∧ t.r1c = s.r1c ∧ t.ws = s.ws ∧
  t.bt = s.bt ∧ t.srIndex = s.srIndex

/-- The results a command leaves: everything it writes but STATUS (10_state.md R33 to R36, R40, R41). -/
def SameResults (u v : State) : Prop :=
  v.lineCount = u.lineCount ∧ v.region1Start = u.region1Start ∧ v.region2Start = u.region2Start ∧ v.resX = u.resX ∧
  v.resY = u.resY ∧ v.resV = u.resV ∧ v.resW = u.resW ∧ v.spec = u.spec ∧ v.xr = u.xr ∧ v.yr = u.yr ∧ v.cur = u.cur

/-- A state just as it is after `complete`, said field by field: IDLE with DONE = 1, the transient state free again, the
next draw, no raise shown (10_state.md R38, R39; logs 6, 8, 12). -/
def Completed (s t : State) : Prop :=
  t.phase = .idle ∧ t.status.done = true ∧ t.tr = Transient.free s.draws ∧ t.draws = s.draws + 1 ∧ t.shownSoft = 0 ∧
  t.shownRollback = false

end Machine

end Sys2Proof
end

