-- ==== Sys2Proof/Certificates/Slice0/Obligations.lean ====
section
/-! DEFINITION. What is claimed of the model: statements only. Each docstring says which rule of spec/ it formalises. Where a
statement rests on a choice of the model, its docstring names the log entry. -/

open Sys2Proof Sys2Proof.Machine

/-! ## Encoding -/

/-- Decode and encode agree (30_encoding.md R80, R82, R83, R91): every well-formed command is read back from the word it
assembles to, with every operand. -/
def Obligations.DecodeOfEncodeIsTheCommand : Prop :=
  ∀ i : Instr, i.wf = true → decode (encode i) = .command i

/-- Decoding depends on exactly the bits R80 to R85 name: a word is command `i` when its OP bits, and but for GRANULE its TABLE
bits, are those that `i` assembles to. No other bit of a word matters, and no word is two commands. -/
def Obligations.WordIsCommandExactlyByItsCareBits : Prop :=
  ∀ (w : Word) (i : Instr), decode w = .command i ↔ i.wf = true ∧ w &&& i.careMask = encode i

/-- Two words that differ only in bits 7:4 and 31:14 decode alike, legal or not (30_encoding.md R85). -/
def Obligations.ReservedBitsOfTheWordAreIgnored : Prop :=
  ∀ w w' : Word, (∀ k, k < 4 ∨ (8 ≤ k ∧ k < 14) → w.getLsbD k = w'.getLsbD k) → decode w = decode w'

/-- Words written out from the bits of R80, R82 and R85 decode to the command they stand for, or are rejected by name. -/
def Obligations.WordsWrittenFromTheEncodingDecode : Prop :=
  decode 0b00000000000000000000000000000001 = .command .granule ∧
  decode 0b11111111111111111100000011110001 = .command .granule ∧
  decode 0b00000000000000000010000000000010 = .command (.sym 32) ∧
  decode 0b00000000000000000001100000000011 = .command (.walk 24) ∧
  decode 0b00000000000000000010000100000100 = .command (.desc 33) ∧
  decode 0b00000000000000000000000000000000 = .illegal (.illegalOp 0) ∧
  decode 0b00000000000000000010001000000010 = .illegal (.tableAbove33 2 34)

/-! ## A command's acceptance and its run -/

/-- R81: what a write to CMD does. While BUSY = 1 the word is discarded and BUSY_WRITE is set; an illegal word sets
ILLEGAL_CMD and DONE; a legal one is latched, DONE is cleared and PHASE is RUN. While a command runs no host access ends or
replaces it. (The counters shownSoft and shownRollback, which an acceptance clears, are the model's own, log 8.) -/
def Obligations.CmdWriteIsAcceptedRejectedOrDiscarded : Prop :=
  ∀ (s : State) (w : Word) (rest : List Event), s.inputs = .access (.write 0x008 4 w) :: rest →
    (s.busy = true → step s = .next { s with inputs := rest, status := { s.status with busyWrite := true } }) ∧
    (s.busy = false → ∀ r, decode w = .illegal r →
      step s = .next { s with inputs := rest, status := { s.status with illegalCmd := true, done := true } }) ∧
    (s.busy = false → ∀ i, decode w = .command i →
      step s = .next { s with
        inputs := rest
        phase := .run i.op (w.extractLsb' 8 6)
        status := { s.status with done := false }
        shownSoft := 0
        shownRollback := false }) ∧
    (s.busy = true → ∀ (a : Access) (t : State), hostAccess a s = .next t → t.phase = s.phase)

/-- R84: the legal words are exactly OP 1, and OP 2, 3 and 4 with TABLE at most 33; every other word written to CMD in IDLE
sets ILLEGAL_CMD and DONE and changes nothing else. -/
def Obligations.IllegalWordSetsIllegalCmdAndDoneOnly : Prop :=
  ∀ w : Word,
    ((∃ i, decode w = .command i) ↔
      (w.extractLsb' 0 4 = 1 ∨
        ((w.extractLsb' 0 4 = 2 ∨ w.extractLsb' 0 4 = 3 ∨ w.extractLsb' 0 4 = 4) ∧ (w.extractLsb' 8 6).toNat ≤ 33))) ∧
    ∀ s : State, s.busy = false → (¬ ∃ i, decode w = .command i) →
      hostAccess (.write 0x008 4 w) s = .next { s with status := { s.status with illegalCmd := true, done := true } }

/-- The latched command runs, whole, in the datapath's turn (70_reset_and_hazards.md R245, 10_state.md R38, R39): with nothing
scheduled, or with the completion scheduled next, a step in RUN is the meaning of the command that LOP and LTAB stand for.
(That the schedule decides when is the model's form of U17, log 9.) -/
def Obligations.StepRunsTheLatchedCommand : Prop :=
  ∀ (s : State) (op : Op) (t : BitVec 6), s.phase = .run op t →
    (s.inputs = [] → step s = exec (op.withTable t) s) ∧
    (∀ rest, s.inputs = .finish :: rest → step s = exec (op.withTable t) { s with inputs := rest })

/-- A table word that decodes is the command the very next step runs (log 9: PHASE has the part of a program counter, R21). -/
def Obligations.FetchWordRunsInTheNextStep : Prop :=
  ∀ (s : State) (nbits w : Nat) (i : Instr), decode (tableWord nbits w) = .command i →
    step (s.withFetchWord nbits w) = exec i (accept i.op (tableField (tableWord nbits w)) s)

/-- In IDLE, with nothing scheduled, nothing happens (60_exceptions.md R213: it is IDLE or running one command; log 10). -/
def Obligations.IdleMachineStaysAsItIs : Prop :=
  ∀ s : State, s.phase = .idle → s.inputs = [] → step s = .next s

/-! ## STATUS and the interrupt -/

/-- The layout of STATUS (10_state.md R23, R38): BUSY reads 1 exactly when PHASE is not IDLE, the five stored bits stand in bits
1 to 5, and bits 31:6 read 0. -/
def Obligations.StatusWordLayout : Prop :=
  ∀ (s : State) (k : Nat),
    (statusWord s).getLsbD k =
      (match k with
        | 0 => decide (s.phase ≠ .idle)
        | 1 => s.status.done
        | 2 => s.status.softFail
        | 3 => s.status.rollback
        | 4 => s.status.illegalCmd
        | 5 => s.status.busyWrite
        | _ => false)

/-- A write to STATUS clears the W1C bits written as 1 and nothing else, at any time (10_state.md R23; 20_memory.md R53;
70_reset_and_hazards.md R242). -/
def Obligations.StatusWriteClearsExactlyTheBitsWritten : Prop :=
  ∀ (s : State) (v : Word), ∃ t, hostAccess (.write 0x004 4 v) s = .next t ∧
    t = { s with status := t.status } ∧ statusWord t = statusWord s &&& ~~~(v &&& 0x0000003E)

/-- Raising a condition sets the STATUS bit of its code and no other bit, and changes no other state (60_exceptions.md R201,
R202). -/
def Obligations.RaiseSetsTheBitOfItsCode : Prop :=
  ∀ (s : State) (c : Condition),
    raise c s = { s with status := (raise c s).status } ∧ statusWord (raise c s) = statusWord s ||| (1#32 <<< c.code)

/-- R205: irq is IRQ_EN and DONE; a write of 1 to DONE, an acceptance and clearing IRQ_EN each clear it; an illegal command
raises it where it is enabled; the sticky condition bits do not drive it. -/
def Obligations.IrqFollowsEnableAndDone : Prop :=
  ∀ s : State,
    s.irq = (s.irqEn && s.status.done) ∧
    (∀ v : Word, v.getLsbD 1 = true → ∃ t, hostAccess (.write 0x004 4 v) s = .next t ∧ t.irq = false) ∧
    (∀ op t, (accept op t s).irq = false) ∧
    (∀ v : Word, s.busy = false → v.getLsbD 0 = false → ∃ t, hostAccess (.write 0x000 4 v) s = .next t ∧ t.irq = false) ∧
    (illegalCommand s).irq = s.irqEn ∧
    (∀ c, (raise c s).irq = s.irq)

/-- A command clears no sticky bit that was set before it (60_exceptions.md R201): what is set stays set through every
command's run. -/
def Obligations.CommandsClearNoStickyBit : Prop :=
  ∀ (i : Instr) (s t : State), exec i s = .next t →
    (s.status.softFail = true → t.status.softFail = true) ∧ (s.status.rollback = true → t.status.rollback = true) ∧
    (s.status.illegalCmd = true → t.status.illegalCmd = true) ∧ (s.status.busyWrite = true → t.status.busyWrite = true)

/-! ## The host window -/

/-- The map of the window, by number (20_memory.md R50, R56): every register has the offset of R50's table, an aligned offset
belongs to a register exactly when it is that register's offset, and 0x00C, 0x03C, 0x050 to 0x0FFC and 0x1900 to 0x1FFC are
reserved. -/
def Obligations.WindowMapIsOneToOne : Prop :=
  (∀ r : Reg, Reg.ofOffset r.offset = some r ∧ r.offset % 4 = 0 ∧ r.offset < 0x2000) ∧
  (∀ (a : Nat) (r : Reg), a % 4 = 0 → Reg.ofOffset a = some r → r.offset = a) ∧
  ([Reg.ctrl, .status, .cmd, .part2Start, .part23Len, .bigValues, .tableSelect, .count1Sel, .regionCount, .blockCfg, .srIndex,
      .lineCount, .region1Start, .region2Start, .resX, .resY, .resV, .resW].map Reg.offset =
    [0x000, 0x004, 0x008, 0x010, 0x014, 0x018, 0x01C, 0x020, 0x024, 0x028, 0x02C, 0x030, 0x034, 0x038, 0x040, 0x044, 0x048,
      0x04C]) ∧
  (∀ i : Fin 576, Reg.ofOffset (0x1000 + 4 * i.val) = some (.spec i)) ∧
  (∀ a : Nat, a % 4 = 0 →
    a = 0x00C ∨ a = 0x03C ∨ (0x050 ≤ a ∧ a ≤ 0x0FFC) ∨ (0x1900 ≤ a ∧ a ≤ 0x1FFC) → Reg.ofOffset a = none)

/-- R51: an access that is not 32 bits wide or not 4-byte aligned is refused. -/
def Obligations.OtherWidthsAndAlignmentsAreRefused : Prop :=
  ∀ (s : State) (addr n : Nat) (v : Word), n ≠ 4 ∨ addr % 4 ≠ 0 →
    hostAccess (.read addr n) s = .refused (.accessShape addr n) ∧
    hostAccess (.write addr n v) s = .refused (.accessShape addr n)

/-- What a read returns while BUSY = 0, and that it changes nothing but what the host has received (20_memory.md R53, R56;
10_state.md R24, R33 to R35): a register's value, and 0 for a reserved offset. CMD reads 0, and each result register reads as its
field, zero-extended, but for SPEC, whose entries are sign-extended. (The list of answers is the model's own, log 11.) -/
def Obligations.IdleReadReturnsTheRegisterOnly : Prop :=
  (∀ (s : State) (a : Nat), s.busy = false → a % 4 = 0 → a < 0x2000 →
    hostAccess (.read a 4) s = .next { s with
      answers := (match Reg.ofOffset a with
        | some r => readReg r s
        | none => 0) :: s.answers }) ∧
  (∀ s : State,
    readReg .cmd s = 0 ∧
    readReg .lineCount s = s.lineCount.setWidth 32 ∧
    readReg .region1Start s = s.region1Start.setWidth 32 ∧
    readReg .region2Start s = s.region2Start.setWidth 32 ∧
    readReg .resX s = s.resX ∧ readReg .resY s = s.resY ∧ readReg .resV s = s.resV ∧ readReg .resW s = s.resW ∧
    (∀ i : Fin 576, readReg (.spec i) s = s.spec[i].signExtend 32 ∧ (readReg (.spec i) s).toInt = s.spec[i].toInt))

/-- A write in IDLE to a read-write register stores its named fields, each from its own bits of the word, reads back with the
reserved bits 0, and leaves every other register as it reads (10_state.md R22, R25 to R32; 20_memory.md R53). -/
def Obligations.WriteStoresTheNamedFieldsOnly : Prop :=
  ∀ (s : State) (r : Reg) (v : Word), s.busy = false → r.isRW = true →
    ∃ t, hostAccess (.write r.offset 4 v) s = .next t ∧ readReg r t = v &&& r.fieldMask ∧
      (∀ q : Reg, q ≠ r → readReg q t = readReg q s) ∧ t.phase = s.phase ∧ t.cur = s.cur ∧ t.resv = s.resv ∧
      t.xr = s.xr ∧ t.yr = s.yr ∧ t.params = s.params ∧
      t.irqEn = (if r = .ctrl then v.getLsbD 0 else s.irqEn) ∧
      t.part2Start = (if r = .part2Start then v else s.part2Start) ∧
      t.part23Len = (if r = .part23Len then v.extractLsb' 0 12 else s.part23Len) ∧
      t.bigValues = (if r = .bigValues then v.extractLsb' 0 9 else s.bigValues) ∧
      t.ts0 = (if r = .tableSelect then v.extractLsb' 0 5 else s.ts0) ∧
      t.ts1 = (if r = .tableSelect then v.extractLsb' 8 5 else s.ts1) ∧
      t.ts2 = (if r = .tableSelect then v.extractLsb' 16 5 else s.ts2) ∧
      t.c1 = (if r = .count1Sel then v.extractLsb' 0 1 else s.c1) ∧
      t.r0c = (if r = .regionCount then v.extractLsb' 0 5 else s.r0c) ∧
      t.r1c = (if r = .regionCount then v.extractLsb' 8 5 else s.r1c) ∧
      t.ws = (if r = .blockCfg then v.extractLsb' 0 1 else s.ws) ∧
      t.bt = (if r = .blockCfg then v.extractLsb' 8 2 else s.bt) ∧
      t.srIndex = (if r = .srIndex then v.extractLsb' 0 4 else s.srIndex)

/-- A write to a read-only register, to SPEC or to a reserved offset is ignored, at any time (20_memory.md R53). -/
def Obligations.WritesToReadOnlyOffsetsAreIgnored : Prop :=
  ∀ (s : State) (a : Nat) (v : Word), a % 4 = 0 → a < 0x2000 →
    (∀ r, Reg.ofOffset a = some r → r ≠ .status ∧ r ≠ .cmd ∧ r.isRW = false) → hostAccess (.write a 4 v) s = .next s

/-- R242: writes while BUSY = 1. CMD and the read-write registers ignore it and BUSY_WRITE is set; STATUS takes its W1C bits;
every other offset ignores it and sets nothing. So no host write changes what the running command reads. -/
def Obligations.WritesWhileBusy : Prop :=
  ∀ (s : State) (a : Nat) (v : Word), s.busy = true → a % 4 = 0 → a < 0x2000 →
    (∀ r, Reg.ofOffset a = some r → (r = .cmd ∨ r.isRW = true) →
      hostAccess (.write a 4 v) s = .next { s with status := { s.status with busyWrite := true } }) ∧
    (Reg.ofOffset a = some .status → hostAccess (.write a 4 v) s = .next (writeStatus v s) ∧
      (writeStatus v s).status.busyWrite = (s.status.busyWrite && !v.getLsbD 5)) ∧
    ((∀ r, Reg.ofOffset a = some r → r ≠ .status ∧ r ≠ .cmd ∧ r.isRW = false) → hostAccess (.write a 4 v) s = .next s) ∧
    (∀ t, hostAccess (.write a 4 v) s = .next t → SameControl s t)

/-- R244: while BUSY = 1 a read of LINECOUNT, REGION1_START, REGION2_START, RES_X to RES_W or SPEC returns a free value, a new
one for each such read. (The draw counter is the model's own, log 12.) -/
def Obligations.ResultReadsWhileBusyAreFree : Prop :=
  ∀ (s : State) (r : Reg), s.busy = true →
    (r ∈ [Reg.lineCount, .region1Start, .region2Start, .resX, .resY, .resV, .resW] ∨ ∃ i, r = .spec i) →
    hostAccess (.read r.offset 4) s =
      .next { s with answers := Config.busyRead s.draws :: s.answers, draws := s.draws + 1 }

/-- While BUSY = 1 a read of CTRL, STATUS or a read-write register returns its current value, and STATUS shows BUSY = 1 and
DONE = 0 (70_reset_and_hazards.md R243), in every state that keeps the invariant; and a read of CMD or of a reserved offset returns
0 (20_memory.md R53, 10_state.md R24). -/
def Obligations.ControlReadsWhileBusyAreCurrent : Prop :=
  (∀ (s : State) (r : Reg), s.Inv → s.busy = true → (r = .status ∨ r.isRW = true) →
    hostAccess (.read r.offset 4) s = .next { s with answers := readReg r s :: s.answers } ∧
    (statusWord s).getLsbD 0 = true ∧ (statusWord s).getLsbD 1 = false) ∧
  (∀ (s : State) (a : Nat), s.busy = true → a % 4 = 0 → a < 0x2000 →
    (Reg.ofOffset a = some .cmd ∨ Reg.ofOffset a = none) →
    hostAccess (.read a 4) s = .next { s with answers := 0 :: s.answers })

/-! ## The catalog and DESC -/

/-- The cells of R101 that the source states hold for every choice of the parameters: the empty indices 0, 4 and 14; the 511-cell
tree T16 of 16..23; the 512-cell tree T24 and the linBits of 24..31; tables 32 and 33. linBits is at most 13 everywhere
(40_catalog.md R101, R102, R103, R104). -/
def Obligations.CatalogHoldsTheStatedCells : Prop :=
  ∀ p : Params,
    (∀ t, t = 0 ∨ t = 4 ∨ t = 14 → (catalog p t).tree = none ∧ (catalog p t).treeLength.val = 0) ∧
    (∀ t, 16 ≤ t → t ≤ 23 → (catalog p t).tree = some .t16 ∧ (catalog p t).treeLength.val = 511) ∧
    (∀ t, 24 ≤ t → t ≤ 31 → (catalog p t).tree = some .t24 ∧ (catalog p t).treeLength.val = 512) ∧
    ([24, 25, 26, 27, 28, 29, 30, 31].map fun t => (catalog p t).linBits.val) = [4, 5, 6, 7, 8, 9, 11, 13] ∧
    (catalog p 32).tree = some .t32 ∧ (catalog p 33).tree = some .t33 ∧
    (∀ t, t = 32 ∨ t = 33 → (catalog p t).treeLength.val = 31 ∧ (catalog p t).linBits.val = 0) ∧
    (∀ t, (catalog p t).linBits.val ≤ 13)

/-- R107: DESC of a table of the catalog completes with the descriptor in RES_X, RES_Y and RES_V, 0 in RES_W, DONE its only
flag, and no reservoir transaction; it writes neither XR, YR nor SPEC. A DESC word with TABLE above 33 is an illegal command. An empty index
returns treeLength 0, and DESC 24 gives 512, 4, 0, 0. (The free transient state and the draw are the model's, logs 6 and 12.) -/
def Obligations.DescCompletesWithTheDescriptor : Prop :=
  (∀ (s : State) (t : BitVec 6), t.toNat ≤ 33 →
    exec (.desc t) s = .next { s with
      resX := BitVec.ofNat 32 (catalog s.params t.toNat).treeLength.val
      resY := BitVec.ofNat 32 (catalog s.params t.toNat).linBits.val
      resV := if 31 < t.toNat then 1 else 0
      resW := 0
      phase := .idle
      status := { s.status with done := true }
      tr := Transient.free s.draws
      draws := s.draws + 1
      shownSoft := 0
      shownRollback := false }) ∧
  (∀ w : Word, w.extractLsb' 0 4 = 4 → 33 < (w.extractLsb' 8 6).toNat →
    decode w = .illegal (.tableAbove33 4 (w.extractLsb' 8 6))) ∧
  (∀ (s : State) (t : BitVec 6), t = 0 ∨ t = 4 ∨ t = 14 → ∃ u, exec (.desc t) s = .next u ∧ u.resX = 0) ∧
  (∀ s : State, ∃ u, exec (.desc 24) s = .next u ∧ u.resX = 512 ∧ u.resY = 4 ∧ u.resV = 0 ∧ u.resW = 0)

/-- R104: an empty index decodes to all zeros without reading a bit, clearing XR and YR and raising nothing (41_tree_walker.md R121,
42_symbol_reconstructor.md R146), and with the default parameters no index but 0, 4 and 14 is empty. -/
def Obligations.EmptyTablesDecodeToZerosWithoutBits : Prop :=
  (∀ (e : Env) (t : Nat) (d : Datapath), t = 0 ∨ t = 4 ∨ t = 14 →
    (decodeSymbol e t d).x = 0 ∧ (decodeSymbol e t d).y = 0 ∧ (decodeSymbol e t d).v = 0 ∧ (decodeSymbol e t d).w = 0 ∧
    (decodeSymbol e t d).dp = { d with xr := 0, yr := 0 } ∧ (walkTree e t d).x = 0 ∧ (walkTree e t d).y = 0 ∧
    (walkTree e t d).ok = true ∧ (walkTree e t d).dp = { d with xr := 0, yr := 0 }) ∧
  Params.default.wf

/-! ## The reservoir port -/

/-- R59: ReadBits(n) is the sum of the n bits from the cursor on, the first the most significant, and moves the cursor by n; it
equals n successive ReadBit calls combined MSB first; and no linBits exceeds 13. -/
def Obligations.ReadBitsIsTheMsbFirstSum : Prop :=
  (∀ (e : Env) (n : Nat) (d : Datapath), 1 ≤ n →
    readBits e n d =
      (∑ k ∈ Finset.range n, (e.resv.read (d.cur + k)).toNat * 2 ^ (n - 1 - k), { d with cur := d.cur + n })) ∧
  (∀ (e : Env) (n : Nat) (d : Datapath),
    readBits e (n + 1) d =
      ((readBit e d).1.toNat * 2 ^ n + (readBits e n (readBit e d).2).1, (readBits e n (readBit e d).2).2)) ∧
  (∀ (p : Params) (t : Nat), (catalog p t).linBits.val ≤ 13)

/-- What the reservoir's owner does to the bits (20_memory.md R61): the position it buffers reads as buffered, and every other
position reads as before. -/
def Obligations.BufferingABitChangesThatPositionOnly : Prop :=
  ∀ (m : Memory) (p q : Nat) (b : Bit), m.wf →
    (m.set p (some b)).read p = b ∧ (q ≠ p → (m.set p (some b)).read q = m.read q ∧ (m.set p none).read q = m.read q)

/-! ## WALK -/

/-- Every code word of at most 31 bits is found (41_tree_walker.md R122, R123, R124, R126): where the bits from the cursor on lead
from the root, through decision nodes and chained escapes inside the tree, to a leaf, the walk reads exactly those bits and
answers that leaf's nibbles, which XR and YR take. -/
def Obligations.WalkFindsEveryShortCodeWord : Prop :=
  ∀ (e : Env) (t : Nat) (d : Datapath) (bs : List Bit) (k : Nat),
    (catalog e.params t).treeLength.val ≠ 0 → bs.length ≤ 31 →
    BitsLead (cellAt e.params (catalog e.params t)) (catalog e.params t).treeLength.val 0 bs k →
    isLeaf (cellAt e.params (catalog e.params t) k) = true → HoldsBits e.resv d.cur bs →
    (walkTree e t d).ok = true ∧
      (walkTree e t d).x = leafX (cellAt e.params (catalog e.params t) k) ∧
      (walkTree e t d).y = leafY (cellAt e.params (catalog e.params t) k) ∧
      (walkTree e t d).dp.xr = (walkTree e t d).x ∧ (walkTree e t d).dp.yr = (walkTree e t d).y ∧
      (walkTree e t d).dp.cur = d.cur + bs.length

/-- Every leaf a walk answers is a code word's (41_tree_walker.md R122 to R124, R126): where a walk of a non-empty table ends at a
leaf, the bits it read lead from the root to that leaf, at most 31 of them. -/
def Obligations.WalkedLeafIsACodeWord : Prop :=
  ∀ (e : Env) (t : Nat) (d : Datapath), (catalog e.params t).treeLength.val ≠ 0 → (walkTree e t d).ok = true →
    ∃ (bs : List Bit) (k : Nat), bs.length ≤ 31 ∧ HoldsBits e.resv d.cur bs ∧
      BitsLead (cellAt e.params (catalog e.params t)) (catalog e.params t).treeLength.val 0 bs k ∧
      isLeaf (cellAt e.params (catalog e.params t) k) = true ∧
      (walkTree e t d).x = leafX (cellAt e.params (catalog e.params t) k) ∧
      (walkTree e t d).y = leafY (cellAt e.params (catalog e.params t) k) ∧
      (walkTree e t d).dp.cur = d.cur + bs.length

/-- A walk without a leaf (41_tree_walker.md R125, R126): it answers XR and YR as they were, leaves them, raises SoftFail once,
and keeps the bits it read consumed, at least one and at most 32. -/
def Obligations.SoftFailedWalkAnswersTheLastLeaf : Prop :=
  ∀ (e : Env) (t : Nat) (d : Datapath), (walkTree e t d).ok = false →
    (walkTree e t d).x = d.xr ∧ (walkTree e t d).y = d.yr ∧ (walkTree e t d).dp.xr = d.xr ∧ (walkTree e t d).dp.yr = d.yr ∧
      (walkTree e t d).dp.softFails = d.softFails + 1 ∧ d.cur + 1 ≤ (walkTree e t d).dp.cur ∧
      (walkTree e t d).dp.cur ≤ d.cur + 32

/-- A walk depends on no reservoir bit but those it reads (41_tree_walker.md R120: it reads the reservoir only through ReadBit). -/
def Obligations.WalkDependsOnlyOnTheBitsItReads : Prop :=
  ∀ (e : Env) (m : Memory) (t : Nat) (d : Datapath), SameBits e.resv m d.cur (walkTree e t d).dp.cur →
    walkTree { e with resv := m } t d = walkTree e t d

/-- WALK completes (41_tree_walker.md R129) where its run keeps the position range (70_reset_and_hazards.md R234), which a cursor
at least 32 below the end always does: the raw nibbles in RES_X and RES_Y, 0 in RES_V and RES_W, SOFTFAIL where the walk
soft-failed. Elsewhere it is refused. (That a raise shown early counts once is log 8.) -/
def Obligations.WalkCompletesWithTheRawNibbles : Prop :=
  ∀ (s : State) (t : BitVec 6), t.toNat ≤ 33 →
    (s.cur.toNat + 32 ≤ 2 ^ 32 - 1 → (walkTree s.env t.toNat s.datapath).dp.cur ≤ 2 ^ 32 - 1) ∧
    ((walkTree s.env t.toNat s.datapath).dp.cur ≤ 2 ^ 32 - 1 →
      exec (.walk t) s = .next { s with
        resX := (walkTree s.env t.toNat s.datapath).x.setWidth 32
        resY := (walkTree s.env t.toNat s.datapath).y.setWidth 32
        resV := 0
        resW := 0
        cur := BitVec.ofNat 32 (walkTree s.env t.toNat s.datapath).dp.cur
        xr := (walkTree s.env t.toNat s.datapath).dp.xr
        yr := (walkTree s.env t.toNat s.datapath).dp.yr
        phase := .idle
        status := { s.status with
          done := true
          softFail := s.status.softFail || (!(walkTree s.env t.toNat s.datapath).ok && decide (s.shownSoft = 0)) }
        tr := Transient.free s.draws
        draws := s.draws + 1
        shownSoft := 0
        shownRollback := false }) ∧
    (2 ^ 32 - 1 < (walkTree s.env t.toNat s.datapath).dp.cur → exec (.walk t) s = .refused .positionRange)

/-- R121, E1: WALK of an empty table completes in every state: RES_X to RES_W 0, XR and YR 0, no bit read, no SOFTFAIL. -/
def Obligations.WalkOfAnEmptyTableCompletes : Prop :=
  ∀ (s : State) (t : BitVec 6), t = 0 ∨ t = 4 ∨ t = 14 →
    exec (.walk t) s = .next { s with
      resX := 0, resY := 0, resV := 0, resW := 0, xr := 0, yr := 0
      phase := .idle
      status := { s.status with done := true }
      tr := Transient.free s.draws
      draws := s.draws + 1
      shownSoft := 0
      shownRollback := false }

/-! ## SYM -/

/-- SYM completes (42_symbol_reconstructor.md R147) where its run keeps the position range (70_reset_and_hazards.md R234), which a
cursor at least 60 below the end always does (R246): the signed outputs in RES_X, RES_Y, RES_V and RES_W as 32-bit two's
complement. Elsewhere it is refused. -/
def Obligations.SymCompletesWithTheSignedValues : Prop :=
  ∀ (s : State) (t : BitVec 6), t.toNat ≤ 33 →
    (s.cur.toNat + 60 ≤ 2 ^ 32 - 1 → (decodeSymbol s.env t.toNat s.datapath).dp.cur ≤ 2 ^ 32 - 1) ∧
    ((decodeSymbol s.env t.toNat s.datapath).dp.cur ≤ 2 ^ 32 - 1 →
      ∃ u, exec (.sym t) s = .next u ∧
        u.resX.toInt = (decodeSymbol s.env t.toNat s.datapath).x ∧
        u.resY.toInt = (decodeSymbol s.env t.toNat s.datapath).y ∧
        u.resV.toInt = (decodeSymbol s.env t.toNat s.datapath).v ∧
        u.resW.toInt = (decodeSymbol s.env t.toNat s.datapath).w ∧
        u.cur.toNat = (decodeSymbol s.env t.toNat s.datapath).dp.cur ∧
        u.xr = (decodeSymbol s.env t.toNat s.datapath).dp.xr ∧ u.yr = (decodeSymbol s.env t.toNat s.datapath).dp.yr ∧
        u.status = { s.status with
          done := true
          softFail := s.status.softFail ||
            decide (s.shownSoft < (decodeSymbol s.env t.toNat s.datapath).dp.softFails) } ∧
        Completed s u) ∧
    (2 ^ 32 - 1 < (decodeSymbol s.env t.toNat s.datapath).dp.cur → exec (.sym t) s = .refused .positionRange)

/-- The pair grammar, bit by bit (42_symbol_reconstructor.md R143, R144, R145, R146): after the code word come x's escape bits where
linBits > 0 and the raw x is 15, x's sign where the magnitude is not 0, then the same for y; v and w are 0. -/
def Obligations.PairSymbolIsReadInOrder : Prop :=
  ∀ (e : Env) (t : Nat) (d : Datapath), t ≤ 31 → (catalog e.params t).treeLength.val ≠ 0 →
    let k := (catalog e.params t).linBits.val
    let w := walkTree e t d
    let escX := if 0 < k ∧ w.x = 15 then k else 0
    let magX := w.x.toNat + e.resv.value w.dp.cur escX
    let endX := w.dp.cur + escX + (if magX = 0 then 0 else 1)
    let escY := if 0 < k ∧ w.y = 15 then k else 0
    let magY := w.y.toNat + e.resv.value endX escY
    (decodeSymbol e t d).x =
        (if magX ≠ 0 ∧ e.resv.read (w.dp.cur + escX) = true then -(magX : Int) else (magX : Int)) ∧
      (decodeSymbol e t d).y = (if magY ≠ 0 ∧ e.resv.read (endX + escY) = true then -(magY : Int) else (magY : Int)) ∧
      (decodeSymbol e t d).v = 0 ∧ (decodeSymbol e t d).w = 0 ∧
      (decodeSymbol e t d).dp = { w.dp with cur := endX + escY + (if magY = 0 then 0 else 1) }

/-- The quadruple grammar, bit by bit (42_symbol_reconstructor.md R141, R142, R146): the magnitudes are the bits of the walk's y
nibble, and one sign bit follows the code word for each that is 1, in the order v, w, x, y. -/
def Obligations.QuadSymbolIsReadInOrder : Prop :=
  ∀ (e : Env) (t : Nat) (d : Datapath), t = 32 ∨ t = 33 →
    let w := walkTree e t d
    let signed := fun (b : Bool) (p : Nat) => if b then (if e.resv.read p then (-1 : Int) else 1) else 0
    let pW := w.dp.cur + (w.y.getLsbD 3).toNat
    let pX := pW + (w.y.getLsbD 2).toNat
    let pY := pX + (w.y.getLsbD 1).toNat
    (decodeSymbol e t d).v = signed (w.y.getLsbD 3) w.dp.cur ∧ (decodeSymbol e t d).w = signed (w.y.getLsbD 2) pW ∧
      (decodeSymbol e t d).x = signed (w.y.getLsbD 1) pX ∧ (decodeSymbol e t d).y = signed (w.y.getLsbD 0) pY ∧
      (decodeSymbol e t d).dp = { w.dp with cur := pY + (w.y.getLsbD 0).toNat }

/-- A symbol depends on no reservoir bit but those it reads, from the cursor on (20_memory.md R63, 00_scope.md R2). -/
def Obligations.SymbolDependsOnlyOnTheBitsItReads : Prop :=
  ∀ (e : Env) (m : Memory) (t : Nat) (d : Datapath), SameBits e.resv m d.cur (decodeSymbol e t d).dp.cur →
    decodeSymbol { e with resv := m } t d = decodeSymbol e t d

/-! ## GRANULE -/

/-- R162: a GRANULE with PART23_LEN = 0 completes in every state: every spectral line and LINECOUNT are 0; the reservoir, its
cursor, REGION1_START and REGION2_START are untouched. -/
def Obligations.ZeroLengthGranuleCompletes : Prop :=
  ∀ s : State, s.part23Len = 0 →
    exec .granule s = .next { s with
      spec := Vector.replicate 576 0
      lineCount := 0
      phase := .idle
      status := { s.status with done := true }
      tr := Transient.free s.draws
      draws := s.draws + 1
      shownSoft := 0
      shownRollback := false }

/-- A GRANULE with PART23_LEN ≠ 0 completes where its run keeps the position range (43_granule_decoder.md R180,
70_reset_and_hazards.md R234), which PART2_START + PART23_LEN ≤ 2^32 - 1 and a cursor at least 22464 below the end (288 pairs
and 144 quadruples, R246) always do; elsewhere it is refused. -/
def Obligations.GranuleCompletesWithinThePositionRange : Prop :=
  ∀ s : State, s.part23Len ≠ 0 →
    (s.cur.toNat + 22464 ≤ 2 ^ 32 - 1 → (granulePasses s).dp.cur ≤ 2 ^ 32 - 1) ∧
    (s.part2Start.toNat + s.part23Len.toNat ≤ 2 ^ 32 - 1 → (granulePasses s).dp.cur ≤ 2 ^ 32 - 1 →
      ∃ t, exec .granule s = .next t ∧ Completed s t ∧
        t.cur.toNat = s.part2Start.toNat + s.part23Len.toNat ∧
        t.status = { s.status with
          done := true
          softFail := s.status.softFail || decide (s.shownSoft < (granulePasses s).dp.softFails)
          rollback := s.status.rollback ||
            (decide (s.part2Start.toNat + s.part23Len.toNat < (granulePasses s).dp.cur) && !s.shownRollback) }) ∧
    (2 ^ 32 - 1 < s.part2Start.toNat + s.part23Len.toNat ∨ 2 ^ 32 - 1 < (granulePasses s).dp.cur →
      exec .granule s = .refused .positionRange)

/-- R164: the region boundaries that a GRANULE with PART23_LEN ≠ 0 writes: 36 and 576 for a short block, else the band starts of
R0C + 1 and R0C + R1C + 2 at SR_INDEX, without truncation. -/
def Obligations.GranuleWritesTheRegionBoundaries : Prop :=
  ∀ s t : State, s.part23Len ≠ 0 → exec .granule s = .next t →
    (s.ws = 1 ∧ s.bt = 2 → t.region1Start = 36 ∧ t.region2Start = 576) ∧
    (¬ (s.ws = 1 ∧ s.bt = 2) →
      t.region1Start = sfb s.params s.srIndex (s.r0c.toNat + 1) ∧
      t.region2Start = sfb s.params s.srIndex (s.r0c.toNat + s.r1c.toNat + 2))

/-- Table selection (43_granule_decoder.md R166): TS0 below RS1, TS1 from there below RS2, else TS2; always a pair table; and in a
short block no line of a granule uses TS2. -/
def Obligations.TableSelectionByRegion : Prop :=
  ∀ (s : State) (rs1 rs2 : BitVec 16) (pos : Nat),
    (pos < rs1.toNat → tableFor s rs1 rs2 pos = s.ts0.toNat) ∧
    (rs1.toNat ≤ pos → pos < rs2.toNat → tableFor s rs1 rs2 pos = s.ts1.toNat) ∧
    (rs1.toNat ≤ pos → rs2.toNat ≤ pos → tableFor s rs1 rs2 pos = s.ts2.toNat) ∧
    tableFor s rs1 rs2 pos ≤ 31 ∧
    (s.ws = 1 ∧ s.bt = 2 → pos < 576 →
      tableFor s (regionStart1 s) (regionStart2 s) pos = if pos < 36 then s.ts0.toNat else s.ts1.toNat)

/-- R179: what holds after every GRANULE. The cursor is PART2_START + PART23_LEN, or unchanged when PART23_LEN = 0; every line from
LINECOUNT on is 0; LINECOUNT is even and at most 576; it is BIGEND + 4q for the q quadruples that the passes decoded, less 4
(not below 0) where the overrun correction fired; and every line lies in -8206..8206. -/
def Obligations.GranulePostconditions : Prop :=
  ∀ s t : State, exec .granule s = .next t →
    (s.part23Len ≠ 0 → t.cur.toNat = s.part2Start.toNat + s.part23Len.toNat) ∧ (s.part23Len = 0 → t.cur = s.cur) ∧
    (∀ i : Fin 576, t.lineCount.toNat ≤ i.val → t.spec[i] = 0) ∧
    t.lineCount.toNat ≤ 576 ∧ t.lineCount.toNat % 2 = 0 ∧
    (s.part23Len ≠ 0 → ∃ q, (granulePasses s).dp.tr.pos.toNat = min (2 * s.bigValues.toNat) 576 + 4 * q ∧
      t.lineCount.toNat =
        (if s.part2Start.toNat + s.part23Len.toNat < (granulePasses s).dp.cur
          then min (2 * s.bigValues.toNat) 576 + 4 * q - 4 else min (2 * s.bigValues.toNat) 576 + 4 * q)) ∧
    (∀ i : Fin 576, -8206 ≤ t.spec[i].toInt ∧ t.spec[i].toInt ≤ 8206)

/-- What a GRANULE computes, symbol by symbol (43_granule_decoder.md R163, R167, R168, R170, R171, R173, R174): datapaths
`f 0`, `f 1`, … such that symbol k is decoded on `f k`; first BIGEND / 2 pairs, with the table of their region, then `q`
quadruples with table 32 + C1, as long as POS ≤ 572 and the cursor is within the granule; each value stands in its line, in the
order decoded, up to LINECOUNT, which the overrun correction takes back by 4, not below 0. (In the last clause, a soft-fail that
STATUS showed early, counted by the model's own shownSoft, sets SOFTFAIL once, log 8.) -/
def Obligations.GranuleLinesAreItsSymbolsInOrder : Prop :=
  ∀ s t : State, s.part23Len ≠ 0 → exec .granule s = .next t → ∃ (f : Nat → Datapath) (q : Nat),
    let n := bigEnd s / 2
    let pair := fun k => decodeSymbol s.env (tableFor s (regionStart1 s) (regionStart2 s) (2 * k)) (f k)
    let quad := fun k => decodeSymbol s.env (count1Table s) (f (n + k))
    let goesOn := fun (a b : Datapath) => b.cur = a.cur ∧ b.xr = a.xr ∧ b.yr = a.yr ∧ b.softFails = a.softFails
    let holds := fun (i : Nat) (v : Int) => i < t.lineCount.toNat → t.spec.line i = BitVec.ofInt 16 v
    goesOn s.datapath (f 0) ∧
    (∀ k, k < n → goesOn (pair k).dp (f (k + 1)) ∧ holds (2 * k) (pair k).x ∧ holds (2 * k + 1) (pair k).y) ∧
    (∀ k, k < q → 2 * n + 4 * k ≤ 572 ∧ (f (n + k)).cur < granuleEnd s ∧ goesOn (quad k).dp (f (n + k + 1)) ∧
      holds (2 * n + 4 * k) (quad k).v ∧ holds (2 * n + 4 * k + 1) (quad k).w ∧ holds (2 * n + 4 * k + 2) (quad k).x ∧
      holds (2 * n + 4 * k + 3) (quad k).y) ∧
    ¬ (2 * n + 4 * q ≤ 572 ∧ (f (n + q)).cur < granuleEnd s) ∧
    t.lineCount.toNat = 2 * n + 4 * q - (if granuleEnd s < (f (n + q)).cur then 4 else 0) ∧
    t.xr = (f (n + q)).xr ∧ t.yr = (f (n + q)).yr ∧
    t.status.softFail = (s.status.softFail || decide (s.shownSoft < (f (n + q)).softFails))

/-- R175: the zero fill. Every line from the final POS on is 0, and every line below it keeps what the passes wrote. -/
def Obligations.ZeroFillKeepsTheDecodedLines : Prop :=
  ∀ s t : State, s.part23Len ≠ 0 → exec .granule s = .next t → ∀ i : Fin 576,
    t.spec[i] = if i.val < t.lineCount.toNat then (granulePasses s).spec[i] else 0

/-- A granule whose big values cover more than 572 lines through empty tables (43_granule_decoder.md R165, R167, R168, R173 to
R177; vectors V67 and V71): no bit is read, no quadruple is decoded, every line is 0, and the overrun correction looks at the
cursor alone. -/
def Obligations.GranuleOfEmptyTables : Prop :=
  ∀ s : State, s.part23Len ≠ 0 → s.part2Start.toNat + s.part23Len.toNat ≤ 2 ^ 32 - 1 → 287 ≤ s.bigValues.toNat →
    (∀ ts ∈ [s.ts0, s.ts1, s.ts2], ts = 0 ∨ ts = 4 ∨ ts = 14) →
    ∃ t, exec .granule s = .next t ∧ (∀ i : Fin 576, t.spec[i] = 0) ∧ t.xr = 0 ∧ t.yr = 0 ∧
      t.cur.toNat = s.part2Start.toNat + s.part23Len.toNat ∧ t.status.softFail = s.status.softFail ∧
      t.lineCount.toNat = min (2 * s.bigValues.toNat) 576 -
        (if s.part2Start.toNat + s.part23Len.toNat < s.cur.toNat then 4 else 0)

/-! ## Frames -/

/-- What every command leaves alone: CTRL and the side-information registers, ILLEGAL_CMD and BUSY_WRITE, the reservoir's bits at
every position, the parameters, the schedule and what the host has received (43_granule_decoder.md R180; 10_state.md R41, R42;
20_memory.md R55). -/
def Obligations.CommandsLeaveControlAndReservoirAlone : Prop :=
  ∀ (i : Instr) (s t : State), i.wf = true → exec i s = .next t →
    SameControl s t ∧ t.status.illegalCmd = s.status.illegalCmd ∧ t.status.busyWrite = s.status.busyWrite ∧
      (∀ p, t.resv.read p = s.resv.read p) ∧ t.resv = s.resv ∧ t.params = s.params ∧ t.inputs = s.inputs ∧
      t.answers = s.answers

/-- SYM, WALK and DESC write neither SPEC, LINECOUNT, REGION1_START, REGION2_START nor ROLLBACK, and DESC neither the cursor, XR,
YR nor SOFTFAIL; GRANULE writes no RES register (10_state.md R33 to R37; decision D35). A line of SPEC stands for the bytes of
memory here: none is stored to by the first three. -/
def Obligations.CommandsWriteOnlyTheirOwnResults : Prop :=
  ∀ s t : State,
    (∀ n : BitVec 6, n.toNat ≤ 33 →
      (exec (.sym n) s = .next t ∨ exec (.walk n) s = .next t ∨ exec (.desc n) s = .next t) →
      (∀ i : Fin 576, t.spec[i] = s.spec[i]) ∧ t.lineCount = s.lineCount ∧ t.region1Start = s.region1Start ∧
        t.region2Start = s.region2Start ∧ t.status.rollback = s.status.rollback) ∧
    (∀ n : BitVec 6, n.toNat ≤ 33 → exec (.desc n) s = .next t →
      t.cur = s.cur ∧ t.xr = s.xr ∧ t.yr = s.yr ∧ t.status.softFail = s.status.softFail) ∧
    (exec .granule s = .next t → t.resX = s.resX ∧ t.resY = s.resY ∧ t.resV = s.resV ∧ t.resW = s.resW)

/-! ## The whole machine -/

/-- The values that R43 gives for reset: every register of the window but SPEC reads 0, irq is 0, PHASE is IDLE, XR and YR are 0. -/
def Obligations.ResetValues : Prop :=
  (∀ r : Reg, (∀ i, r ≠ .spec i) → readReg r State.reset = 0) ∧ State.reset.irq = false ∧ State.reset.phase = .idle ∧
    State.reset.xr = 0 ∧ State.reset.yr = 0

/-- A reset at any time (10_state.md R43; 70_reset_and_hazards.md R230, R231): the registers read 0, HTW is IDLE with DONE = 0, the
running command is abandoned, and neither the reservoir's bits nor the parameters change, nor the cursor when HTW was IDLE.
(That the schedule and the host's answers stay is the model's choice, log 14.) -/
def Obligations.ResetEventPutsTheResetState : Prop :=
  ∀ (s : State) (rest : List Event), s.inputs = .reset :: rest →
    ∃ t, step s = .next t ∧ (∀ r : Reg, (∀ i, r ≠ .spec i) → readReg r t = 0) ∧ t.irq = false ∧ t.phase = .idle ∧
      t.xr = 0 ∧ t.yr = 0 ∧ t.resv = s.resv ∧ t.params = s.params ∧ t.inputs = rest ∧ t.answers = s.answers ∧
      (s.busy = false → t.cur = s.cur)

/-- The invariant holds at reset (log 4 for the cursor; nothing of it rests on that value). -/
def Obligations.InvariantHoldsAtReset : Prop := State.reset.Inv

/-- Every step keeps the invariant, from every state that has it. -/
def Obligations.InvariantIsKeptByEveryStep : Prop :=
  ∀ s t : State, s.Inv → step s = .next t → t.Inv

/-- No step changes the tree ROM, the catalog or the band table (10_state.md R42; 70_reset_and_hazards.md R232; 20_memory.md R57). -/
def Obligations.NoStepChangesTheTables : Prop :=
  ∀ s t : State, step s = .next t → t.params = s.params

/-- SPEC changes only in a step that runs a GRANULE, or at a reset (20_memory.md R56, 10_state.md R43). -/
def Obligations.OnlyGranuleAndResetChangeSpec : Prop :=
  ∀ s t : State, step s = .next t → t.spec ≠ s.spec →
    (∃ ltab, s.phase = .run .granule ltab ∧ (s.inputs = [] ∨ ∃ rest, s.inputs = .finish :: rest)) ∨
      ∃ rest, s.inputs = .reset :: rest

/-- The reservoir's bits change only where its owner acts, never through HTW, the host's accesses or a reset (10_state.md R41). -/
def Obligations.OnlyTheOwnerChangesReservoirBits : Prop :=
  ∀ s t : State, step s = .next t → t.resv ≠ s.resv → ∃ p b rest, s.inputs = .setBit p b :: rest

/-- The cursor moves only where a command other than DESC completes, where the reservoir's owner positions it, or where a reset
abandons a command (10_state.md R41; 20_memory.md R60; 70_reset_and_hazards.md R230). -/
def Obligations.WhatMovesTheCursor : Prop :=
  ∀ s t : State, step s = .next t → t.cur ≠ s.cur →
    (∃ op ltab, s.phase = .run op ltab ∧ op ≠ .desc ∧ (s.inputs = [] ∨ ∃ rest, s.inputs = .finish :: rest)) ∨
      (∃ p rest, s.inputs = .moveCursor p :: rest) ∨ (s.busy = true ∧ ∃ rest, s.inputs = .reset :: rest)

/-- While BUSY = 1 an agent other than HTW may neither move the cursor nor change a bit at a position HTW may read: the model
refuses the step (70_reset_and_hazards.md R241). Every other change of a bit is made. The positions start at the cursor, and there
is none for DESC, for a GRANULE with PART23_LEN = 0 (43_granule_decoder.md R162), and for SYM and WALK of an empty table
(41_tree_walker.md R121). (That HTW may read the others is the model's bound, log 16.) -/
def Obligations.OutsideInterferenceIsRefused : Prop :=
  ∀ s : State,
    (s.busy = true → ∀ p, deliver (.moveCursor p) s = .refused .cursorMovedWhileBusy) ∧
    (∀ p b, mayRead s p.toNat = true → s.resv.lookup p.toNat ≠ b →
      deliver (.setBit p b) s = .refused (.bitChangedWhileBusy p.toNat)) ∧
    (∀ p b, mayRead s p.toNat = false ∨ s.resv.lookup p.toNat = b →
      deliver (.setBit p b) s = .next { s with resv := s.resv.set p.toNat b }) ∧
    (∀ p, p < s.cur.toNat → mayRead s p = false) ∧
    (∀ (p : Nat) (op : Op) (ltab : BitVec 6), s.phase = .run op ltab →
      (op = .desc ∨ (op = .granule ∧ s.part23Len = 0) ∨ ((op = .sym ∨ op = .walk) ∧ (ltab = 0 ∨ ltab = 4 ∨ ltab = 14))) →
      mayRead s p = false)

/-- A command sees the registers of the moment it was accepted (70_reset_and_hazards.md R242, R245): whatever host access comes
while it runs, it completes with the same results. -/
def Obligations.HostAccessesDoNotDisturbARunningCommand : Prop :=
  ∀ (s t u : State) (op : Op) (ltab : BitVec 6) (a : Access), s.Inv → s.phase = .run op ltab → hostAccess a s = .next t →
    exec (op.withTable ltab) s = .next u →
    t.phase = s.phase ∧ ∃ v, exec (op.withTable ltab) t = .next v ∧ SameResults u v ∧ v.phase = .idle

/-- No command's result depends on a bit outside the positions it may read (70_reset_and_hazards.md R241, R246): a bit that the
reservoir's owner may change while the command runs changes nothing of its outcome but the reservoir itself. (Which positions
those are is the model's bound, log 16.) -/
def Obligations.BitsOutOfReachDoNotChangeTheOutcome : Prop :=
  ∀ (s t u : State) (op : Op) (ltab : BitVec 6) (p : BitVec 32) (b : Option Bit), s.Inv → s.phase = .run op ltab →
    deliver (.setBit p b) s = .next t → exec (op.withTable ltab) s = .next u →
    exec (op.withTable ltab) t = .next { u with resv := t.resv }

/-- A sticky condition that shows before the command completes leaves STATUS at completion as if it had not shown early
(70_reset_and_hazards.md R243, R245; log 8). -/
def Obligations.EarlyRaiseLeavesTheFinalStatus : Prop :=
  ∀ (s u : State) (op : Op) (ltab : BitVec 6), s.Inv → s.phase = .run op ltab → exec (op.withTable ltab) s = .next u →
    ∃ v, exec (op.withTable ltab) (raiseShows s) = .next v ∧ v.status = u.status ∧ SameResults u v

/-- WAITDONE ends (30_encoding.md R92; 70_reset_and_hazards.md R246): from every running command that is within the position range,
the loop has read DONE = 1 after three steps, and the schedule goes on behind it. (The form of the loop is log 21.) -/
def Obligations.WaitDoneEndsWhenTheCommandCompletes : Prop :=
  ∀ (s u : State) (op : Op) (ltab : BitVec 6) (rest : List Event), s.Inv → s.phase = .run op ltab →
    s.inputs = .waitDone :: rest → exec (op.withTable ltab) s = .next u →
    ∃ v, core.run 3 s = .next v ∧ v.inputs = rest ∧ v.phase = .idle ∧ v.status.done = true ∧ SameResults u v
end

