-- ==== Sys2Proof/Laws/State.lean ====
section
/-! SUPPORT. One lemma for each field and each named update of State, true by rfl. -/

namespace Sys2Proof.Machine

variable (s : State)

/-! ### accept -/

@[simp] theorem accept_irqEn (op : Op) (t : BitVec 6) : (accept op t s).irqEn = s.irqEn := rfl
@[simp] theorem accept_status (op : Op) (t : BitVec 6) : (accept op t s).status = { s.status with done := false } := rfl
@[simp] theorem accept_part2Start (op : Op) (t : BitVec 6) : (accept op t s).part2Start = s.part2Start := rfl
@[simp] theorem accept_part23Len (op : Op) (t : BitVec 6) : (accept op t s).part23Len = s.part23Len := rfl
@[simp] theorem accept_bigValues (op : Op) (t : BitVec 6) : (accept op t s).bigValues = s.bigValues := rfl
@[simp] theorem accept_ts0 (op : Op) (t : BitVec 6) : (accept op t s).ts0 = s.ts0 := rfl
@[simp] theorem accept_ts1 (op : Op) (t : BitVec 6) : (accept op t s).ts1 = s.ts1 := rfl
@[simp] theorem accept_ts2 (op : Op) (t : BitVec 6) : (accept op t s).ts2 = s.ts2 := rfl
@[simp] theorem accept_c1 (op : Op) (t : BitVec 6) : (accept op t s).c1 = s.c1 := rfl
@[simp] theorem accept_r0c (op : Op) (t : BitVec 6) : (accept op t s).r0c = s.r0c := rfl
@[simp] theorem accept_r1c (op : Op) (t : BitVec 6) : (accept op t s).r1c = s.r1c := rfl
@[simp] theorem accept_ws (op : Op) (t : BitVec 6) : (accept op t s).ws = s.ws := rfl
@[simp] theorem accept_bt (op : Op) (t : BitVec 6) : (accept op t s).bt = s.bt := rfl
@[simp] theorem accept_srIndex (op : Op) (t : BitVec 6) : (accept op t s).srIndex = s.srIndex := rfl
@[simp] theorem accept_lineCount (op : Op) (t : BitVec 6) : (accept op t s).lineCount = s.lineCount := rfl
@[simp] theorem accept_region1Start (op : Op) (t : BitVec 6) : (accept op t s).region1Start = s.region1Start := rfl
@[simp] theorem accept_region2Start (op : Op) (t : BitVec 6) : (accept op t s).region2Start = s.region2Start := rfl
@[simp] theorem accept_resX (op : Op) (t : BitVec 6) : (accept op t s).resX = s.resX := rfl
@[simp] theorem accept_resY (op : Op) (t : BitVec 6) : (accept op t s).resY = s.resY := rfl
@[simp] theorem accept_resV (op : Op) (t : BitVec 6) : (accept op t s).resV = s.resV := rfl
@[simp] theorem accept_resW (op : Op) (t : BitVec 6) : (accept op t s).resW = s.resW := rfl
@[simp] theorem accept_spec (op : Op) (t : BitVec 6) : (accept op t s).spec = s.spec := rfl
@[simp] theorem accept_phase (op : Op) (t : BitVec 6) : (accept op t s).phase = .run op t := rfl
@[simp] theorem accept_tr (op : Op) (t : BitVec 6) : (accept op t s).tr = s.tr := rfl
@[simp] theorem accept_xr (op : Op) (t : BitVec 6) : (accept op t s).xr = s.xr := rfl
@[simp] theorem accept_yr (op : Op) (t : BitVec 6) : (accept op t s).yr = s.yr := rfl
@[simp] theorem accept_cur (op : Op) (t : BitVec 6) : (accept op t s).cur = s.cur := rfl
@[simp] theorem accept_resv (op : Op) (t : BitVec 6) : (accept op t s).resv = s.resv := rfl
@[simp] theorem accept_params (op : Op) (t : BitVec 6) : (accept op t s).params = s.params := rfl
@[simp] theorem accept_inputs (op : Op) (t : BitVec 6) : (accept op t s).inputs = s.inputs := rfl
@[simp] theorem accept_answers (op : Op) (t : BitVec 6) : (accept op t s).answers = s.answers := rfl
@[simp] theorem accept_shownSoft (op : Op) (t : BitVec 6) : (accept op t s).shownSoft = 0 := rfl
@[simp] theorem accept_shownRollback (op : Op) (t : BitVec 6) : (accept op t s).shownRollback = false := rfl
@[simp] theorem accept_draws (op : Op) (t : BitVec 6) : (accept op t s).draws = s.draws := rfl

/-! ### complete -/

@[simp] theorem complete_irqEn : (complete s).irqEn = s.irqEn := rfl
@[simp] theorem complete_status : (complete s).status = { s.status with done := true } := rfl
@[simp] theorem complete_part2Start : (complete s).part2Start = s.part2Start := rfl
@[simp] theorem complete_part23Len : (complete s).part23Len = s.part23Len := rfl
@[simp] theorem complete_bigValues : (complete s).bigValues = s.bigValues := rfl
@[simp] theorem complete_ts0 : (complete s).ts0 = s.ts0 := rfl
@[simp] theorem complete_ts1 : (complete s).ts1 = s.ts1 := rfl
@[simp] theorem complete_ts2 : (complete s).ts2 = s.ts2 := rfl
@[simp] theorem complete_c1 : (complete s).c1 = s.c1 := rfl
@[simp] theorem complete_r0c : (complete s).r0c = s.r0c := rfl
@[simp] theorem complete_r1c : (complete s).r1c = s.r1c := rfl
@[simp] theorem complete_ws : (complete s).ws = s.ws := rfl
@[simp] theorem complete_bt : (complete s).bt = s.bt := rfl
@[simp] theorem complete_srIndex : (complete s).srIndex = s.srIndex := rfl
@[simp] theorem complete_lineCount : (complete s).lineCount = s.lineCount := rfl
@[simp] theorem complete_region1Start : (complete s).region1Start = s.region1Start := rfl
@[simp] theorem complete_region2Start : (complete s).region2Start = s.region2Start := rfl
@[simp] theorem complete_resX : (complete s).resX = s.resX := rfl
@[simp] theorem complete_resY : (complete s).resY = s.resY := rfl
@[simp] theorem complete_resV : (complete s).resV = s.resV := rfl
@[simp] theorem complete_resW : (complete s).resW = s.resW := rfl
@[simp] theorem complete_spec : (complete s).spec = s.spec := rfl
@[simp] theorem complete_phase : (complete s).phase = .idle := rfl
@[simp] theorem complete_tr : (complete s).tr = Transient.free s.draws := rfl
@[simp] theorem complete_xr : (complete s).xr = s.xr := rfl
@[simp] theorem complete_yr : (complete s).yr = s.yr := rfl
@[simp] theorem complete_cur : (complete s).cur = s.cur := rfl
@[simp] theorem complete_resv : (complete s).resv = s.resv := rfl
@[simp] theorem complete_params : (complete s).params = s.params := rfl
@[simp] theorem complete_inputs : (complete s).inputs = s.inputs := rfl
@[simp] theorem complete_answers : (complete s).answers = s.answers := rfl
@[simp] theorem complete_shownSoft : (complete s).shownSoft = 0 := rfl
@[simp] theorem complete_shownRollback : (complete s).shownRollback = false := rfl
@[simp] theorem complete_draws : (complete s).draws = s.draws + 1 := rfl

/-! ### setRes -/

@[simp] theorem setRes_irqEn (x y v w : Word) : (setRes x y v w s).irqEn = s.irqEn := rfl
@[simp] theorem setRes_status (x y v w : Word) : (setRes x y v w s).status = s.status := rfl
@[simp] theorem setRes_part2Start (x y v w : Word) : (setRes x y v w s).part2Start = s.part2Start := rfl
@[simp] theorem setRes_part23Len (x y v w : Word) : (setRes x y v w s).part23Len = s.part23Len := rfl
@[simp] theorem setRes_bigValues (x y v w : Word) : (setRes x y v w s).bigValues = s.bigValues := rfl
@[simp] theorem setRes_ts0 (x y v w : Word) : (setRes x y v w s).ts0 = s.ts0 := rfl
@[simp] theorem setRes_ts1 (x y v w : Word) : (setRes x y v w s).ts1 = s.ts1 := rfl
@[simp] theorem setRes_ts2 (x y v w : Word) : (setRes x y v w s).ts2 = s.ts2 := rfl
@[simp] theorem setRes_c1 (x y v w : Word) : (setRes x y v w s).c1 = s.c1 := rfl
@[simp] theorem setRes_r0c (x y v w : Word) : (setRes x y v w s).r0c = s.r0c := rfl
@[simp] theorem setRes_r1c (x y v w : Word) : (setRes x y v w s).r1c = s.r1c := rfl
@[simp] theorem setRes_ws (x y v w : Word) : (setRes x y v w s).ws = s.ws := rfl
@[simp] theorem setRes_bt (x y v w : Word) : (setRes x y v w s).bt = s.bt := rfl
@[simp] theorem setRes_srIndex (x y v w : Word) : (setRes x y v w s).srIndex = s.srIndex := rfl
@[simp] theorem setRes_lineCount (x y v w : Word) : (setRes x y v w s).lineCount = s.lineCount := rfl
@[simp] theorem setRes_region1Start (x y v w : Word) : (setRes x y v w s).region1Start = s.region1Start := rfl
@[simp] theorem setRes_region2Start (x y v w : Word) : (setRes x y v w s).region2Start = s.region2Start := rfl
@[simp] theorem setRes_resX (x y v w : Word) : (setRes x y v w s).resX = x := rfl
@[simp] theorem setRes_resY (x y v w : Word) : (setRes x y v w s).resY = y := rfl
@[simp] theorem setRes_resV (x y v w : Word) : (setRes x y v w s).resV = v := rfl
@[simp] theorem setRes_resW (x y v w : Word) : (setRes x y v w s).resW = w := rfl
@[simp] theorem setRes_spec (x y v w : Word) : (setRes x y v w s).spec = s.spec := rfl
@[simp] theorem setRes_phase (x y v w : Word) : (setRes x y v w s).phase = s.phase := rfl
@[simp] theorem setRes_tr (x y v w : Word) : (setRes x y v w s).tr = s.tr := rfl
@[simp] theorem setRes_xr (x y v w : Word) : (setRes x y v w s).xr = s.xr := rfl
@[simp] theorem setRes_yr (x y v w : Word) : (setRes x y v w s).yr = s.yr := rfl
@[simp] theorem setRes_cur (x y v w : Word) : (setRes x y v w s).cur = s.cur := rfl
@[simp] theorem setRes_resv (x y v w : Word) : (setRes x y v w s).resv = s.resv := rfl
@[simp] theorem setRes_params (x y v w : Word) : (setRes x y v w s).params = s.params := rfl
@[simp] theorem setRes_inputs (x y v w : Word) : (setRes x y v w s).inputs = s.inputs := rfl
@[simp] theorem setRes_answers (x y v w : Word) : (setRes x y v w s).answers = s.answers := rfl
@[simp] theorem setRes_shownSoft (x y v w : Word) : (setRes x y v w s).shownSoft = s.shownSoft := rfl
@[simp] theorem setRes_shownRollback (x y v w : Word) : (setRes x y v w s).shownRollback = s.shownRollback := rfl
@[simp] theorem setRes_draws (x y v w : Word) : (setRes x y v w s).draws = s.draws := rfl

/-! ### illegalCommand -/

@[simp] theorem illegalCommand_irqEn : (illegalCommand s).irqEn = s.irqEn := rfl
@[simp] theorem illegalCommand_status : (illegalCommand s).status = { s.status with illegalCmd := true, done := true } := rfl
@[simp] theorem illegalCommand_part2Start : (illegalCommand s).part2Start = s.part2Start := rfl
@[simp] theorem illegalCommand_part23Len : (illegalCommand s).part23Len = s.part23Len := rfl
@[simp] theorem illegalCommand_bigValues : (illegalCommand s).bigValues = s.bigValues := rfl
@[simp] theorem illegalCommand_ts0 : (illegalCommand s).ts0 = s.ts0 := rfl
@[simp] theorem illegalCommand_ts1 : (illegalCommand s).ts1 = s.ts1 := rfl
@[simp] theorem illegalCommand_ts2 : (illegalCommand s).ts2 = s.ts2 := rfl
@[simp] theorem illegalCommand_c1 : (illegalCommand s).c1 = s.c1 := rfl
@[simp] theorem illegalCommand_r0c : (illegalCommand s).r0c = s.r0c := rfl
@[simp] theorem illegalCommand_r1c : (illegalCommand s).r1c = s.r1c := rfl
@[simp] theorem illegalCommand_ws : (illegalCommand s).ws = s.ws := rfl
@[simp] theorem illegalCommand_bt : (illegalCommand s).bt = s.bt := rfl
@[simp] theorem illegalCommand_srIndex : (illegalCommand s).srIndex = s.srIndex := rfl
@[simp] theorem illegalCommand_lineCount : (illegalCommand s).lineCount = s.lineCount := rfl
@[simp] theorem illegalCommand_region1Start : (illegalCommand s).region1Start = s.region1Start := rfl
@[simp] theorem illegalCommand_region2Start : (illegalCommand s).region2Start = s.region2Start := rfl
@[simp] theorem illegalCommand_resX : (illegalCommand s).resX = s.resX := rfl
@[simp] theorem illegalCommand_resY : (illegalCommand s).resY = s.resY := rfl
@[simp] theorem illegalCommand_resV : (illegalCommand s).resV = s.resV := rfl
@[simp] theorem illegalCommand_resW : (illegalCommand s).resW = s.resW := rfl
@[simp] theorem illegalCommand_spec : (illegalCommand s).spec = s.spec := rfl
@[simp] theorem illegalCommand_phase : (illegalCommand s).phase = s.phase := rfl
@[simp] theorem illegalCommand_tr : (illegalCommand s).tr = s.tr := rfl
@[simp] theorem illegalCommand_xr : (illegalCommand s).xr = s.xr := rfl
@[simp] theorem illegalCommand_yr : (illegalCommand s).yr = s.yr := rfl
@[simp] theorem illegalCommand_cur : (illegalCommand s).cur = s.cur := rfl
@[simp] theorem illegalCommand_resv : (illegalCommand s).resv = s.resv := rfl
@[simp] theorem illegalCommand_params : (illegalCommand s).params = s.params := rfl
@[simp] theorem illegalCommand_inputs : (illegalCommand s).inputs = s.inputs := rfl
@[simp] theorem illegalCommand_answers : (illegalCommand s).answers = s.answers := rfl
@[simp] theorem illegalCommand_shownSoft : (illegalCommand s).shownSoft = s.shownSoft := rfl
@[simp] theorem illegalCommand_shownRollback : (illegalCommand s).shownRollback = s.shownRollback := rfl
@[simp] theorem illegalCommand_draws : (illegalCommand s).draws = s.draws := rfl

/-! ### answer -/

@[simp] theorem answer_irqEn (v : Word) : (answer v s).irqEn = s.irqEn := rfl
@[simp] theorem answer_status (v : Word) : (answer v s).status = s.status := rfl
@[simp] theorem answer_part2Start (v : Word) : (answer v s).part2Start = s.part2Start := rfl
@[simp] theorem answer_part23Len (v : Word) : (answer v s).part23Len = s.part23Len := rfl
@[simp] theorem answer_bigValues (v : Word) : (answer v s).bigValues = s.bigValues := rfl
@[simp] theorem answer_ts0 (v : Word) : (answer v s).ts0 = s.ts0 := rfl
@[simp] theorem answer_ts1 (v : Word) : (answer v s).ts1 = s.ts1 := rfl
@[simp] theorem answer_ts2 (v : Word) : (answer v s).ts2 = s.ts2 := rfl
@[simp] theorem answer_c1 (v : Word) : (answer v s).c1 = s.c1 := rfl
@[simp] theorem answer_r0c (v : Word) : (answer v s).r0c = s.r0c := rfl
@[simp] theorem answer_r1c (v : Word) : (answer v s).r1c = s.r1c := rfl
@[simp] theorem answer_ws (v : Word) : (answer v s).ws = s.ws := rfl
@[simp] theorem answer_bt (v : Word) : (answer v s).bt = s.bt := rfl
@[simp] theorem answer_srIndex (v : Word) : (answer v s).srIndex = s.srIndex := rfl
@[simp] theorem answer_lineCount (v : Word) : (answer v s).lineCount = s.lineCount := rfl
@[simp] theorem answer_region1Start (v : Word) : (answer v s).region1Start = s.region1Start := rfl
@[simp] theorem answer_region2Start (v : Word) : (answer v s).region2Start = s.region2Start := rfl
@[simp] theorem answer_resX (v : Word) : (answer v s).resX = s.resX := rfl
@[simp] theorem answer_resY (v : Word) : (answer v s).resY = s.resY := rfl
@[simp] theorem answer_resV (v : Word) : (answer v s).resV = s.resV := rfl
@[simp] theorem answer_resW (v : Word) : (answer v s).resW = s.resW := rfl
@[simp] theorem answer_spec (v : Word) : (answer v s).spec = s.spec := rfl
@[simp] theorem answer_phase (v : Word) : (answer v s).phase = s.phase := rfl
@[simp] theorem answer_tr (v : Word) : (answer v s).tr = s.tr := rfl
@[simp] theorem answer_xr (v : Word) : (answer v s).xr = s.xr := rfl
@[simp] theorem answer_yr (v : Word) : (answer v s).yr = s.yr := rfl
@[simp] theorem answer_cur (v : Word) : (answer v s).cur = s.cur := rfl
@[simp] theorem answer_resv (v : Word) : (answer v s).resv = s.resv := rfl
@[simp] theorem answer_params (v : Word) : (answer v s).params = s.params := rfl
@[simp] theorem answer_inputs (v : Word) : (answer v s).inputs = s.inputs := rfl
@[simp] theorem answer_answers (v : Word) : (answer v s).answers = v :: s.answers := rfl
@[simp] theorem answer_shownSoft (v : Word) : (answer v s).shownSoft = s.shownSoft := rfl
@[simp] theorem answer_shownRollback (v : Word) : (answer v s).shownRollback = s.shownRollback := rfl
@[simp] theorem answer_draws (v : Word) : (answer v s).draws = s.draws := rfl

/-! ### raise: one condition, and all of a run -/

/-- What `raise` does, as one update: it sets the condition's STATUS bit and nothing else. -/
theorem raise_eq (c : Condition) : raise c s = { s with status := (raise c s).status } := by cases c <;> rfl

theorem ite_raise_softFail (a : Prop) [Decidable a] :
    (if a then raise .softFail s else s) =
      { s with status := { s.status with softFail := s.status.softFail || decide a } } := by
  by_cases h : a <;> simp [h, raise]

theorem ite_raise_rollback (a : Prop) [Decidable a] :
    (if a then raise .rollback s else s) =
      { s with status := { s.status with rollback := s.status.rollback || decide a } } := by
  by_cases h : a <;> simp [h, raise]

/-- What `raiseAll` does, as one update of the two sticky bits. -/
theorem raiseAll_eq (r : Raises) :
    raiseAll r s =
      { s with
        status :=
          { s.status with
            softFail := s.status.softFail || decide (s.shownSoft < r.softFails)
            rollback := s.status.rollback || (r.rollback && !s.shownRollback) } } := by
  rw [raiseAll, ite_raise_softFail, ite_raise_rollback]
  cases r.rollback <;> cases s.shownRollback <;> simp

/-- What `writeBack` does, as one update. -/
theorem writeBack_eq (d : Datapath) (rb : Bool) :
    writeBack d rb s =
      { s with
        cur := BitVec.ofNat 32 d.cur
        xr := d.xr
        yr := d.yr
        tr := d.tr
        status :=
          { s.status with
            softFail := s.status.softFail || decide (s.shownSoft < d.softFails)
            rollback := s.status.rollback || (rb && !s.shownRollback) } } := by
  simp [writeBack, raiseAll_eq]

@[simp] theorem writeBack_irqEn (d : Datapath) (rb : Bool) : (writeBack d rb s).irqEn = s.irqEn := by rw [writeBack_eq]
@[simp] theorem writeBack_part2Start (d : Datapath) (rb : Bool) : (writeBack d rb s).part2Start = s.part2Start := by rw [writeBack_eq]
@[simp] theorem writeBack_part23Len (d : Datapath) (rb : Bool) : (writeBack d rb s).part23Len = s.part23Len := by rw [writeBack_eq]
@[simp] theorem writeBack_bigValues (d : Datapath) (rb : Bool) : (writeBack d rb s).bigValues = s.bigValues := by rw [writeBack_eq]
@[simp] theorem writeBack_ts0 (d : Datapath) (rb : Bool) : (writeBack d rb s).ts0 = s.ts0 := by rw [writeBack_eq]
@[simp] theorem writeBack_ts1 (d : Datapath) (rb : Bool) : (writeBack d rb s).ts1 = s.ts1 := by rw [writeBack_eq]
@[simp] theorem writeBack_ts2 (d : Datapath) (rb : Bool) : (writeBack d rb s).ts2 = s.ts2 := by rw [writeBack_eq]
@[simp] theorem writeBack_c1 (d : Datapath) (rb : Bool) : (writeBack d rb s).c1 = s.c1 := by rw [writeBack_eq]
@[simp] theorem writeBack_r0c (d : Datapath) (rb : Bool) : (writeBack d rb s).r0c = s.r0c := by rw [writeBack_eq]
@[simp] theorem writeBack_r1c (d : Datapath) (rb : Bool) : (writeBack d rb s).r1c = s.r1c := by rw [writeBack_eq]
@[simp] theorem writeBack_ws (d : Datapath) (rb : Bool) : (writeBack d rb s).ws = s.ws := by rw [writeBack_eq]
@[simp] theorem writeBack_bt (d : Datapath) (rb : Bool) : (writeBack d rb s).bt = s.bt := by rw [writeBack_eq]
@[simp] theorem writeBack_srIndex (d : Datapath) (rb : Bool) : (writeBack d rb s).srIndex = s.srIndex := by rw [writeBack_eq]
@[simp] theorem writeBack_lineCount (d : Datapath) (rb : Bool) : (writeBack d rb s).lineCount = s.lineCount := by rw [writeBack_eq]
@[simp] theorem writeBack_region1Start (d : Datapath) (rb : Bool) : (writeBack d rb s).region1Start = s.region1Start := by rw [writeBack_eq]
@[simp] theorem writeBack_region2Start (d : Datapath) (rb : Bool) : (writeBack d rb s).region2Start = s.region2Start := by rw [writeBack_eq]
@[simp] theorem writeBack_resX (d : Datapath) (rb : Bool) : (writeBack d rb s).resX = s.resX := by rw [writeBack_eq]
@[simp] theorem writeBack_resY (d : Datapath) (rb : Bool) : (writeBack d rb s).resY = s.resY := by rw [writeBack_eq]
@[simp] theorem writeBack_resV (d : Datapath) (rb : Bool) : (writeBack d rb s).resV = s.resV := by rw [writeBack_eq]
@[simp] theorem writeBack_resW (d : Datapath) (rb : Bool) : (writeBack d rb s).resW = s.resW := by rw [writeBack_eq]
@[simp] theorem writeBack_spec (d : Datapath) (rb : Bool) : (writeBack d rb s).spec = s.spec := by rw [writeBack_eq]
@[simp] theorem writeBack_phase (d : Datapath) (rb : Bool) : (writeBack d rb s).phase = s.phase := by rw [writeBack_eq]
@[simp] theorem writeBack_tr (d : Datapath) (rb : Bool) : (writeBack d rb s).tr = d.tr := by rw [writeBack_eq]
@[simp] theorem writeBack_xr (d : Datapath) (rb : Bool) : (writeBack d rb s).xr = d.xr := by rw [writeBack_eq]
@[simp] theorem writeBack_yr (d : Datapath) (rb : Bool) : (writeBack d rb s).yr = d.yr := by rw [writeBack_eq]
@[simp] theorem writeBack_cur (d : Datapath) (rb : Bool) : (writeBack d rb s).cur = BitVec.ofNat 32 d.cur := by rw [writeBack_eq]
@[simp] theorem writeBack_resv (d : Datapath) (rb : Bool) : (writeBack d rb s).resv = s.resv := by rw [writeBack_eq]
@[simp] theorem writeBack_params (d : Datapath) (rb : Bool) : (writeBack d rb s).params = s.params := by rw [writeBack_eq]
@[simp] theorem writeBack_inputs (d : Datapath) (rb : Bool) : (writeBack d rb s).inputs = s.inputs := by rw [writeBack_eq]
@[simp] theorem writeBack_answers (d : Datapath) (rb : Bool) : (writeBack d rb s).answers = s.answers := by rw [writeBack_eq]
@[simp] theorem writeBack_shownSoft (d : Datapath) (rb : Bool) : (writeBack d rb s).shownSoft = s.shownSoft := by rw [writeBack_eq]
@[simp] theorem writeBack_shownRollback (d : Datapath) (rb : Bool) : (writeBack d rb s).shownRollback = s.shownRollback := by rw [writeBack_eq]
@[simp] theorem writeBack_draws (d : Datapath) (rb : Bool) : (writeBack d rb s).draws = s.draws := by rw [writeBack_eq]

@[simp] theorem writeBack_status (d : Datapath) (rb : Bool) :
    (writeBack d rb s).status =
      { s.status with
        softFail := s.status.softFail || decide (s.shownSoft < d.softFails)
        rollback := s.status.rollback || (rb && !s.shownRollback) } := by rw [writeBack_eq]

/-! ### The end of a command -/

/-- `retire` completes exactly where the cursor stayed within the position range. -/
theorem retire_next_iff (peak : Nat) (t : State) :
    retire peak s = .next t ↔ peak ≤ Config.maxPosition ∧ complete s = t := by
  unfold retire; split <;> simp_all

theorem retire_of_le {peak : Nat} (h : peak ≤ Config.maxPosition) : retire peak s = .next (complete s) := if_pos h

theorem retire_of_lt {peak : Nat} (h : Config.maxPosition < peak) : retire peak s = .refused .positionRange :=
  if_neg (by omega)

end Sys2Proof.Machine
end

