-- ==== Sys2Proof/Laws/Ops.lean ====
section
/-! SUPPORT. What the shared operations do: the reservoir's bits, the reservoir port and the spectral memory. -/

namespace Sys2Proof.Machine

/-! ### The reservoir's bits -/

theorem Memory.lookup_write (m : Memory) (p q : Nat) (b : Bit) (h : m.Pairwise (fun a b => a.1 < b.1)) :
    (m.write p b).lookup q = if q = p then some b else m.lookup q := by
  induction m with
  | nil => simp [Memory.write, Memory.lookup]
  | cons c m ih =>
    obtain ⟨r, c⟩ := c
    have ih := ih h.tail
    have hr := (List.pairwise_cons.mp h).1
    simp only [Memory.write]
    split
    · simp [Memory.lookup]
    · split
      · subst_vars; simp only [Memory.lookup]; split <;> rfl
      · simp only [Memory.lookup, ih]
        split <;> split <;> first | rfl | omega

theorem Memory.lookup_none_of_forall (m : Memory) (p : Nat) (h : ∀ c ∈ m, c.1 ≠ p) : m.lookup p = none := by
  induction m with
  | nil => rfl
  | cons c m ih =>
    simp only [Memory.lookup]
    rw [if_neg (fun e => h c (by simp) e.symm), ih fun d hd => h d (by simp [hd])]

theorem Memory.lookup_drop (m : Memory) (p q : Nat) : (m.drop p).lookup q = if q = p then none else m.lookup q := by
  induction m with
  | nil => simp [Memory.drop, Memory.lookup]
  | cons c m ih =>
    obtain ⟨r, c⟩ := c
    simp only [Memory.drop] at ih
    by_cases hr : r = p
    · subst hr
      simp only [Memory.drop, List.filter, ne_eq, not_true_eq_false, decide_false, ih, Memory.lookup]
      split <;> rfl
    · simp only [Memory.drop, List.filter, ne_eq, hr, not_false_eq_true, decide_true, Memory.lookup, ih]
      split <;> split <;> first | rfl | omega

theorem Memory.lookup_set (m : Memory) (p q : Nat) (b : Option Bit) (h : m.wf) :
    (m.set p b).lookup q = if q = p then b else m.lookup q := by
  cases b with
  | none => exact Memory.lookup_drop m p q
  | some b => exact Memory.lookup_write m p q b h.1

/-- A position that is not the one set reads as before. -/
theorem Memory.read_set_other (m : Memory) (p q : Nat) (b : Option Bit) (h : m.wf) (hq : q ≠ p) :
    (m.set p b).read q = m.read q := by
  simp [Memory.read, Memory.lookup_set m p q b h, hq]

/-- A position that is buffered reads as the bit it was buffered with. -/
theorem Memory.read_write_same (m : Memory) (p : Nat) (b : Bit) (h : m.wf) : (m.write p b).read p = b := by
  simp [Memory.read, Memory.lookup_write m p p b h.1]

theorem Memory.mem_write {m : Memory} {p : Nat} {b : Bit} {c : Nat × Bit} (hc : c ∈ m.write p b) :
    c = (p, b) ∨ c ∈ m := by
  induction m with
  | nil => simpa [Memory.write] using hc
  | cons d m ih =>
    obtain ⟨q, d⟩ := d
    simp only [Memory.write] at hc
    split at hc
    · simpa using hc
    · split at hc
      · rcases List.mem_cons.mp hc with h | h
        · exact .inl h
        · exact .inr (List.mem_cons_of_mem _ h)
      · rcases List.mem_cons.mp hc with h | h
        · exact .inr (by simp [h])
        · exact (ih h).imp_right (List.mem_cons_of_mem _)

theorem Memory.pairwise_write (m : Memory) (p : Nat) (b : Bit) (h : m.Pairwise (fun a b => a.1 < b.1)) :
    (m.write p b).Pairwise (fun a b => a.1 < b.1) := by
  induction m with
  | nil => simp [Memory.write]
  | cons d m ih =>
    obtain ⟨q, d⟩ := d
    obtain ⟨hq, hm⟩ := List.pairwise_cons.mp h
    simp only [Memory.write]
    split
    · rename_i hlt
      refine List.pairwise_cons.mpr ⟨fun c hc => ?_, h⟩
      rcases List.mem_cons.mp hc with rfl | hc
      · exact hlt
      · exact hlt.trans (hq c hc)
    · split
      · rename_i heq
        subst heq
        exact List.pairwise_cons.mpr ⟨hq, hm⟩
      · refine List.pairwise_cons.mpr ⟨fun c hc => ?_, ih hm⟩
        rcases Memory.mem_write hc with rfl | hc
        · simp only; omega
        · exact hq c hc

/-- Buffering and dropping a bit keep the canonical form. -/
theorem Memory.wf_set (m : Memory) (p : Nat) (b : Option Bit) (hp : p ≤ Config.maxPosition) (h : m.wf) :
    (m.set p b).wf := by
  cases b with
  | none => exact ⟨h.1.sublist List.filter_sublist, fun c hc => h.2 c (List.mem_filter.mp hc).1⟩
  | some b =>
    refine ⟨Memory.pairwise_write m p b h.1, fun c hc => ?_⟩
    rcases Memory.mem_write hc with rfl | hc
    · exact hp
    · exact h.2 c hc

/-! ### The reservoir port -/

@[simp] theorem readBit_fst (e : Env) (d : Datapath) : (readBit e d).1 = e.resv.read d.cur := rfl

@[simp] theorem readBit_snd (e : Env) (d : Datapath) : (readBit e d).2 = { d with cur := d.cur + 1 } := rfl

/-- ReadBits moves the cursor by n and changes nothing else. -/
@[simp] theorem readBits_snd (e : Env) (n : Nat) (d : Datapath) :
    (readBits e n d).2 = { d with cur := d.cur + n } := by
  induction n with
  | zero => rfl
  | succ n ih => simp [readBits, ih, Nat.add_assoc]

theorem readBits_succ (e : Env) (n : Nat) (d : Datapath) :
    (readBits e (n + 1) d).1 = 2 * (readBits e n d).1 + (e.resv.read (d.cur + n)).toNat := by
  simp [readBits]

theorem readBits_lt (e : Env) (n : Nat) (d : Datapath) : (readBits e n d).1 < 2 ^ n := by
  induction n with
  | zero => simp [readBits]
  | succ n ih =>
    rw [readBits_succ, pow_succ]
    have := (e.resv.read (d.cur + n)).toNat_le
    omega

/-! ### The spectral memory -/

theorem SpecMem.line_eq (m : SpecMem) {i : Nat} (h : i < Config.numLines) : m.line i = m[i] := by
  simp [SpecMem.line, h]

/-- A line that is not stored to reads as before. -/
theorem SpecMem.line_store_other (m : SpecMem) (i j : Nat) (v : Int) (h : i ≠ j) : (m.store i v).line j = m.line j := by
  unfold SpecMem.store SpecMem.line
  split
  · by_cases hj : j < Config.numLines
    · simp [hj, h]
    · simp [hj]
  · rfl

/-- A line that is stored to reads as the value's low 16 bits. -/
theorem SpecMem.line_store_same (m : SpecMem) {i : Nat} (v : Int) (h : i < Config.numLines) :
    (m.store i v).line i = BitVec.ofInt 16 v := by
  simp [SpecMem.store, SpecMem.line, h]

/-- The zero fill keeps the lines below `pos` and zeroes the others. -/
theorem SpecMem.line_zeroFrom (m : SpecMem) (pos i : Nat) :
    (m.zeroFrom pos).line i = if i < pos then m.line i else 0 := by
  by_cases hi : i < Config.numLines
  · rw [SpecMem.line_eq _ hi, SpecMem.line_eq _ hi]
    unfold SpecMem.zeroFrom
    simp only [Vector.getElem_mk, List.getElem_toArray, List.getElem_take]
    by_cases hp : i < pos
    · rw [List.getElem_append_left (by simp; omega)]
      simp [hp]
    · rw [List.getElem_append_right (by simp; omega)]
      simp [hp]
  · simp [SpecMem.line, hi]

end Sys2Proof.Machine
end

