-- ==== Sys2Proof/Laws/Walker.lean ====
section
/-! SUPPORT. What the Tree Walker does: one lemma for each of its functions. -/

namespace Sys2Proof.Machine

variable (e : Env) (desc : Descriptor)

/-- Everything but the walker's own part of the datapath is kept: POS, END, RS1, RS2 and TBL. -/
def KeepsRegion (d d' : Datapath) : Prop :=
  d'.tr.pos = d.tr.pos ∧ d'.tr.endPos = d.tr.endPos ∧ d'.tr.rs1 = d.tr.rs1 ∧ d'.tr.rs2 = d.tr.rs2 ∧ d'.tr.tbl = d.tr.tbl

theorem KeepsRegion.refl (d : Datapath) : KeepsRegion d d := ⟨rfl, rfl, rfl, rfl, rfl⟩

theorem KeepsRegion.trans {a b c : Datapath} (h : KeepsRegion a b) (k : KeepsRegion b c) : KeepsRegion a c :=
  ⟨k.1.trans h.1, k.2.1.trans h.2.1, k.2.2.1.trans h.2.2.1, k.2.2.2.1.trans h.2.2.2.1, k.2.2.2.2.trans h.2.2.2.2⟩

/-! ### Offset resolution -/

/-- Offset resolution writes IDX and CELL only. -/
theorem resolve_snd (b : Bit) (n : Nat) (d : Datapath) :
    (resolve e desc b n d).2 =
      { d with tr := { d.tr with
          idx := (resolve e desc b n d).2.tr.idx
          cell := (resolve e desc b n d).2.tr.cell } } := by
  induction n generalizing d with
  | zero => rfl
  | succ n ih =>
    simp only [resolve]
    split
    · rfl
    · split
      · rfl
      · rw [ih]

@[simp] theorem resolve_cur (b : Bit) (n : Nat) (d : Datapath) : (resolve e desc b n d).2.cur = d.cur := by
  rw [resolve_snd]

@[simp] theorem resolve_xr (b : Bit) (n : Nat) (d : Datapath) : (resolve e desc b n d).2.xr = d.xr := by
  rw [resolve_snd]

@[simp] theorem resolve_yr (b : Bit) (n : Nat) (d : Datapath) : (resolve e desc b n d).2.yr = d.yr := by
  rw [resolve_snd]

@[simp] theorem resolve_softFails (b : Bit) (n : Nat) (d : Datapath) : (resolve e desc b n d).2.softFails = d.softFails := by
  rw [resolve_snd]

@[simp] theorem resolve_budget (b : Bit) (n : Nat) (d : Datapath) : (resolve e desc b n d).2.tr.budget = d.tr.budget := by
  rw [resolve_snd]

@[simp] theorem resolve_pos (b : Bit) (n : Nat) (d : Datapath) : (resolve e desc b n d).2.tr.pos = d.tr.pos := by
  rw [resolve_snd]

@[simp] theorem resolve_endPos (b : Bit) (n : Nat) (d : Datapath) : (resolve e desc b n d).2.tr.endPos = d.tr.endPos := by
  rw [resolve_snd]

@[simp] theorem resolve_rs1 (b : Bit) (n : Nat) (d : Datapath) : (resolve e desc b n d).2.tr.rs1 = d.tr.rs1 := by
  rw [resolve_snd]

@[simp] theorem resolve_rs2 (b : Bit) (n : Nat) (d : Datapath) : (resolve e desc b n d).2.tr.rs2 = d.tr.rs2 := by
  rw [resolve_snd]

@[simp] theorem resolve_tbl (b : Bit) (n : Nat) (d : Datapath) : (resolve e desc b n d).2.tr.tbl = d.tr.tbl := by
  rw [resolve_snd]

/-- Adding an offset byte to an index of a tree does not wrap: IDX stays at most 766 (41_tree_walker.md R127). -/
theorem idx_add_toNat (i : BitVec 10) (b : BitVec 8) (h : i.toNat < 513) :
    (i + b.setWidth 10).toNat = i.toNat + b.toNat := by
  have := b.isLt
  rw [BitVec.toNat_add, BitVec.toNat_setWidth, Nat.mod_eq_of_lt (by omega : b.toNat < 2 ^ 10), Nat.mod_eq_of_lt (by omega)]

theorem Leads.lt_of_escape {cells : Nat → BitVec 16} {len : Nat} {b : Bit} {i j : Nat} (h : Leads cells len b i j)
    (hi : Config.escThreshold ≤ (sideByte b (cells i)).toNat) :
    i + (sideByte b (cells i)).toNat < len ∧ Leads cells len b (i + (sideByte b (cells i)).toNat) j := by
  cases h with
  | literal _ h => exact absurd h (by omega)
  | escape _ _ h1 h2 h3 => exact ⟨h2, h3⟩

theorem Leads.eq_of_literal {cells : Nat → BitVec 16} {len : Nat} {b : Bit} {i j : Nat} (h : Leads cells len b i j)
    (hi : (sideByte b (cells i)).toNat < Config.escThreshold) : j = i + (sideByte b (cells i)).toNat := by
  cases h with
  | literal _ h => rfl
  | escape _ _ h1 h2 h3 => omega

/-- What offset resolution answers, with enough steps left: the index its bit leads to, or that its bit leads nowhere.
Three steps are always enough (R127). -/
theorem resolve_spec (b : Bit) (n : Nat) (d : Datapath) (hi : d.tr.idx.toNat < desc.treeLength.val)
    (hc : d.tr.cell = cellAt e.params desc d.tr.idx.toNat) (hn : 750 ≤ d.tr.idx.toNat + 250 * n) :
    if (resolve e desc b n d).1 then
      Leads (cellAt e.params desc) desc.treeLength.val b d.tr.idx.toNat (resolve e desc b n d).2.tr.idx.toNat
    else ∀ j, ¬ Leads (cellAt e.params desc) desc.treeLength.val b d.tr.idx.toNat j := by
  have hlen : desc.treeLength.val < 513 := desc.treeLength.isLt
  induction n generalizing d with
  | zero => omega
  | succ n ih =>
    have hadd := idx_add_toNat d.tr.idx (sideByte b d.tr.cell) (by omega)
    simp only [resolve]
    split
    · rename_i hlit
      rw [if_pos rfl]
      simp only [hadd]
      rw [hc] at hlit ⊢
      exact .literal _ hlit
    · rename_i hesc
      split
      · rename_i hlen
        simp only [hadd] at hlen
        rw [if_neg (by simp)]
        intro j hj
        rw [hc] at hesc hlen
        exact absurd (hj.lt_of_escape (by omega)).1 (by omega)
      · rename_i hlen
        simp only [hadd] at hlen
        have hesc' : 250 ≤ (sideByte b d.tr.cell).toNat := by simpa [Config.escThreshold] using hesc
        have key := ih { d with tr := { d.tr with
            idx := d.tr.idx + (sideByte b d.tr.cell).setWidth 10
            cell := cellAt e.params desc (d.tr.idx + (sideByte b d.tr.cell).setWidth 10).toNat } }
          (by simp only [hadd]; omega) rfl (by simp only [hadd]; omega)
        simp only [hadd] at key ⊢
        rw [hc] at hesc hlen key ⊢
        split at key
        · rename_i h1
          rw [if_pos h1]
          exact .escape _ _ (by omega) (by omega) key
        · rename_i h1
          rw [if_neg h1]
          exact fun j hj => key j (hj.lt_of_escape (by omega)).2

/-- A bit leads to one index only. -/
theorem Leads.unique {cells : Nat → BitVec 16} {len : Nat} {b : Bit} {i j k : Nat} (hj : Leads cells len b i j)
    (hk : Leads cells len b i k) : j = k := by
  induction hj with
  | literal i h => exact (hk.eq_of_literal h).symm
  | escape i j h1 h2 h3 ih => exact ih (hk.lt_of_escape h1).2

/-! ### The walk -/

/-- What a walk leaves of the datapath it started from: everything outside the walker; the nibbles it answers are XR and
YR; a soft-fail counts once and keeps XR and YR (R125); it reads at most BUDGET bits (R126). -/
structure WalkFrame (d : Datapath) (n : Nat) (r : Walk) : Prop where
  region : KeepsRegion d r.dp
  outX : r.x = r.dp.xr
  outY : r.y = r.dp.yr
  fails : r.dp.softFails = d.softFails + (if r.ok then 0 else 1)
  stale : r.ok = false → r.dp.xr = d.xr ∧ r.dp.yr = d.yr
  curLe : d.cur ≤ r.dp.cur
  curBound : r.dp.cur ≤ d.cur + n

/-- A walk that goes on after one bit: its frame holds from before the bit. -/
theorem WalkFrame.of_bit {d d' : Datapath} {n : Nat} {r : Walk} (h : WalkFrame d' n r) (hr : KeepsRegion d d')
    (hx : d'.xr = d.xr) (hy : d'.yr = d.yr) (hs : d'.softFails = d.softFails) (hc : d'.cur = d.cur + 1) :
    WalkFrame d (n + 1) r where
  region := hr.trans h.region
  outX := h.outX
  outY := h.outY
  fails := hs ▸ h.fails
  stale := fun ho => hx ▸ hy ▸ h.stale ho
  curLe := by have := h.curLe; omega
  curBound := by have := h.curBound; omega

theorem walkLoop_frame (n : Nat) (d : Datapath) : WalkFrame d n (walkLoop e desc n d) := by
  induction n generalizing d with
  | zero => exact ⟨⟨rfl, rfl, rfl, rfl, rfl⟩, rfl, rfl, rfl, fun _ => ⟨rfl, rfl⟩, Nat.le_refl _, Nat.le_refl _⟩
  | succ n ih =>
    simp only [walkLoop]
    split
    · exact ⟨⟨rfl, rfl, rfl, rfl, rfl⟩, rfl, rfl, rfl, fun h => by simp [leaf] at h, Nat.le_refl _, by simp [leaf]⟩
    · split
      · split
        · constructor <;> simp [softFail, KeepsRegion]
        · exact (ih _).of_bit (by simp [KeepsRegion]) (by simp) (by simp) (by simp) (by simp)
      · constructor <;> simp [softFail, KeepsRegion]

/-- The same for a whole walk, which reads at most 32 bits (R126). -/
theorem walkTree_frame (t : Nat) (d : Datapath) : WalkFrame d Config.walkBudget (walkTree e t d) := by
  unfold walkTree
  simp only
  split
  · exact ⟨⟨rfl, rfl, rfl, rfl, rfl⟩, rfl, rfl, rfl, fun h => by simp at h, Nat.le_refl _, by simp⟩
  · obtain ⟨h1, h2, h3, h4, h5, h6, h7⟩ := walkLoop_frame e (catalog e.params t) Config.walkBudget
      { d with tr := { d.tr with idx := 0, budget := BitVec.ofNat 6 Config.walkBudget } }
    exact ⟨h1, h2, h3, h4, h5, h6, h7⟩

/-- A walk of an empty table reads no bit and clears XR and YR (R121). -/
theorem walkTree_empty (t : Nat) (d : Datapath) (h : (catalog e.params t).treeLength.val = 0) :
    walkTree e t d = { x := 0, y := 0, ok := true, dp := { d with xr := 0, yr := 0 } } := by
  simp [walkTree, h]

end Sys2Proof.Machine
end

