-- ==== Sys2Proof/Laws/Symbol.lean ====
section
/-! SUPPORT. What the Symbol Reconstructor does: the bits it reads, the values it answers and what it leaves alone. -/

namespace Sys2Proof.Machine

variable (e : Env)

/-- ReadSign moves the cursor by one for a nonzero magnitude and changes nothing else (42_symbol_reconstructor.md R142, R144). -/
@[simp] theorem readSign_snd (m : Nat) (d : Datapath) :
    (readSign e m d).2 = { d with cur := d.cur + (if m = 0 then 0 else 1) } := by
  unfold readSign
  split <;> simp

/-- A sign leaves the magnitude as it is (R144). -/
theorem readSign_natAbs (m : Nat) (d : Datapath) : (readSign e m d).1.natAbs = m := by
  unfold readSign
  split
  · simp_all
  · dsimp only; split <;> simp

/-- The escape moves the cursor by linBits where it fires and changes nothing else (R143). -/
@[simp] theorem readEscape_snd (k m : Nat) (d : Datapath) :
    (readEscape e k m d).2 = { d with cur := d.cur + (if 0 < k ∧ m = 15 then k else 0) } := by
  unfold readEscape
  split <;> simp

/-- An escaped magnitude is at least the raw one and at most 15 + 2^linBits - 1 (R143). -/
theorem readEscape_bounds (k m : Nat) (d : Datapath) (hm : m ≤ 15) :
    m ≤ (readEscape e k m d).1 ∧ (readEscape e k m d).1 ≤ 15 + (2 ^ k - 1) := by
  unfold readEscape
  split
  · have := readBits_lt e k d
    dsimp only; omega
  · dsimp only; omega

/-- One value of a pair reads its escape bits and its sign bit, and changes nothing but the cursor (R143, R144). -/
@[simp] theorem readPairValue_snd (k m : Nat) (d : Datapath) :
    (readPairValue e k m d).2 =
      { d with cur := d.cur + (if 0 < k ∧ m = 15 then k else 0) + (if (readEscape e k m d).1 = 0 then 0 else 1) } := by
  simp [readPairValue]

/-- Every pair value lies in -8206..8206 (R144; linBits is at most 13, 40_catalog.md R103). -/
theorem readPairValue_natAbs (k : Nat) (hk : k ≤ 13) (m : Nat) (hm : m ≤ 15) (d : Datapath) :
    (readPairValue e k m d).1.natAbs ≤ 8206 := by
  have h := (readEscape_bounds e k m d hm).2
  have : 2 ^ k ≤ 2 ^ 13 := Nat.pow_le_pow_right (by omega) hk
  simp only [readPairValue, readSign_natAbs]
  omega

/-- What DecodeSymbol leaves of the datapath it started from, with a bound on the bits it reads and on its values. -/
structure SymbolFrame (d : Datapath) (n bound : Nat) (r : Symbol) : Prop where
  region : KeepsRegion d r.dp
  failsLe : d.softFails ≤ r.dp.softFails
  failsBound : r.dp.softFails ≤ d.softFails + 1
  curLe : d.cur ≤ r.dp.cur
  curBound : r.dp.cur ≤ d.cur + n
  xBound : r.x.natAbs ≤ bound
  yBound : r.y.natAbs ≤ bound
  vBound : r.v.natAbs ≤ bound
  wBound : r.w.natAbs ≤ bound

theorem linBits_le (desc : Descriptor) : desc.linBits.val ≤ 13 := by have := desc.linBits.isLt; omega

/-- `d'` is `d` with the cursor moved on by at most `n` bits. -/
def MovesCursor (n : Nat) (d d' : Datapath) : Prop := ∃ c, d' = { d with cur := d.cur + c } ∧ c ≤ n

theorem MovesCursor.trans {n m : Nat} {a b c : Datapath} (h : MovesCursor n a b) (k : MovesCursor m b c) :
    MovesCursor (n + m) a c := by
  obtain ⟨x, rfl, hx⟩ := h
  obtain ⟨y, rfl, hy⟩ := k
  exact ⟨x + y, by simp [Nat.add_assoc], by omega⟩

theorem readSign_moves (m : Nat) (d : Datapath) : MovesCursor 1 d (readSign e m d).2 :=
  ⟨_, readSign_snd e m d, by split <;> omega⟩

theorem readPairValue_moves (k m : Nat) (d : Datapath) : MovesCursor (k + 1) d (readPairValue e k m d).2 :=
  ⟨_, by rw [readPairValue_snd, Nat.add_assoc], by split <;> split <;> omega⟩

theorem pairSymbol_moves (k : Nat) (rx ry : BitVec 4) (d : Datapath) :
    MovesCursor (k + 1 + (k + 1)) d (pairSymbol e k rx ry d).dp :=
  (readPairValue_moves e k _ d).trans (readPairValue_moves e k _ _)

theorem quadSymbol_moves (ry : BitVec 4) (d : Datapath) : MovesCursor 4 d (quadSymbol e ry d).dp :=
  (((readSign_moves e _ d).trans (readSign_moves e _ _)).trans (readSign_moves e _ _)).trans (readSign_moves e _ _)

/-- DecodeSymbol of a pair table: at most 60 bits (70_reset_and_hazards.md R246), values in -8206..8206 (R144). -/
theorem decodeSymbol_pair (t : Nat) (d : Datapath) (ht : isQuad t = false) :
    SymbolFrame d 60 8206 (decodeSymbol e t d) ∧ (decodeSymbol e t d).v = 0 ∧ (decodeSymbol e t d).w = 0 := by
  simp only [decodeSymbol]
  split
  · exact ⟨⟨⟨rfl, rfl, rfl, rfl, rfl⟩, Nat.le_refl _, by simp, Nat.le_refl _, by simp, by simp, by simp, by simp, by simp⟩, rfl, rfl⟩
  · simp only [ht]
    have hw := walkTree_frame e t d
    obtain ⟨c, hc, hcle⟩ := pairSymbol_moves e (catalog e.params t).linBits.val (walkTree e t d).x (walkTree e t d).y (walkTree e t d).dp
    have hk := linBits_le (catalog e.params t)
    have hcl := hw.curLe
    have hcb := hw.curBound
    have hf := hw.fails
    simp only [Config.walkBudget] at hcb
    refine ⟨⟨?_, ?_, ?_, ?_, ?_, ?_, ?_, ?_, ?_⟩, rfl, rfl⟩
    · exact hw.region.trans (by rw [if_neg (by simp), hc]; exact ⟨rfl, rfl, rfl, rfl, rfl⟩)
    · rw [if_neg (by simp), hc]; dsimp only; omega
    · rw [if_neg (by simp), hc]; dsimp only; split at hf <;> omega
    · rw [if_neg (by simp), hc]; dsimp only; omega
    · rw [if_neg (by simp), hc]; dsimp only; omega
    · exact readPairValue_natAbs e _ hk _ (by omega) _
    · exact readPairValue_natAbs e _ hk _ (by omega) _
    · simp [pairSymbol]
    · simp [pairSymbol]

/-- DecodeSymbol of a quadruple table: at most 36 bits (70_reset_and_hazards.md R246), values in -1..1 (R142). -/
theorem decodeSymbol_quad (t : Nat) (d : Datapath) (ht : isQuad t = true) : SymbolFrame d 36 1 (decodeSymbol e t d) := by
  simp only [decodeSymbol]
  split
  · exact ⟨⟨rfl, rfl, rfl, rfl, rfl⟩, Nat.le_refl _, by simp, Nat.le_refl _, by simp, by simp, by simp, by simp, by simp⟩
  · have hw := walkTree_frame e t d
    obtain ⟨c, hc, hcle⟩ := quadSymbol_moves e (walkTree e t d).y (walkTree e t d).dp
    have hcl := hw.curLe
    have hcb := hw.curBound
    have hf := hw.fails
    simp only [Config.walkBudget] at hcb
    refine ⟨?_, ?_, ?_, ?_, ?_, ?_, ?_, ?_, ?_⟩
    · exact hw.region.trans (by rw [hc]; exact ⟨rfl, rfl, rfl, rfl, rfl⟩)
    · rw [hc]; dsimp only; omega
    · rw [hc]; dsimp only; split at hf <;> omega
    · rw [hc]; dsimp only; omega
    · rw [hc]; dsimp only; omega
    all_goals simp [quadSymbol, readSign_natAbs, Bool.toNat_le]

/-- Either way: at most 60 bits, values in -8206..8206. -/
theorem decodeSymbol_frame (t : Nat) (d : Datapath) : SymbolFrame d 60 8206 (decodeSymbol e t d) := by
  cases h : isQuad t
  · exact (decodeSymbol_pair e t d h).1
  · obtain ⟨h1, h2, h3, h4, h5, h6, h7, h8, h9⟩ := decodeSymbol_quad e t d h
    exact ⟨h1, h2, h3, h4, by omega, by omega, by omega, by omega, by omega⟩

end Sys2Proof.Machine
end

