-- ==== Sys2Proof/Laws/Granule.lean ====
section
/-! SUPPORT. What the two passes of the granule decoder do: where they stop, what they leave alone, and what they store. -/

namespace Sys2Proof.Machine

variable (s : State)

/-- What a pass keeps and bounds: END, RS1 and RS2 stay, the cursor goes forward by at most `n` bits. -/
structure PassFrame (n : Nat) (g g' : Gran) : Prop where
  endPos : g'.dp.tr.endPos = g.dp.tr.endPos
  rs1 : g'.dp.tr.rs1 = g.dp.tr.rs1
  rs2 : g'.dp.tr.rs2 = g.dp.tr.rs2
  failsLe : g.dp.softFails ≤ g'.dp.softFails
  curLe : g.dp.cur ≤ g'.dp.cur
  curBound : g'.dp.cur ≤ g.dp.cur + n

theorem PassFrame.refl (g : Gran) : PassFrame 0 g g := ⟨rfl, rfl, rfl, Nat.le_refl _, Nat.le_refl _, Nat.le_refl _⟩

theorem PassFrame.trans {n m : Nat} {a b c : Gran} (h : PassFrame n a b) (k : PassFrame m b c) : PassFrame (n + m) a c where
  endPos := k.endPos.trans h.endPos
  rs1 := k.rs1.trans h.rs1
  rs2 := k.rs2.trans h.rs2
  failsLe := h.failsLe.trans k.failsLe
  curLe := h.curLe.trans k.curLe
  curBound := by have := h.curBound; have := k.curBound; omega

theorem PassFrame.mono {n m : Nat} {a b : Gran} (h : PassFrame n a b) (hn : n ≤ m) : PassFrame m a b :=
  ⟨h.endPos, h.rs1, h.rs2, h.failsLe, h.curLe, h.curBound.trans (by omega)⟩

/-- The first `k` lines hold values in -8206..8206. -/
def LinesInRange (m : SpecMem) (k : Nat) : Prop := ∀ i, i < k → (m.line i).toInt.natAbs ≤ 8206

theorem toInt_ofInt_16 (v : Int) (h : v.natAbs ≤ 8206) : (BitVec.ofInt 16 v).toInt = v := by
  rw [BitVec.toInt_ofInt, Int.bmod_eq_of_le] <;> omega

/-- Storing a value in range at the end of the lines in range extends them by one. -/
theorem LinesInRange.store {m : SpecMem} {k : Nat} (h : LinesInRange m k) (v : Int) (hv : v.natAbs ≤ 8206) :
    LinesInRange (m.store k v) (k + 1) := by
  intro i hi
  by_cases hk : i = k
  · subst hk
    by_cases hlt : i < Config.numLines
    · rw [SpecMem.line_store_same m v hlt, toInt_ofInt_16 v hv]; exact hv
    · simp [SpecMem.line, hlt]
  · rw [SpecMem.line_store_other m k i v (Ne.symm hk)]; exact h i (by omega)

/-! ### One symbol -/

theorem pos_add (p : BitVec 10) (k : Nat) (h : p.toNat + k < 1024) : (p + BitVec.ofNat 10 k).toNat = p.toNat + k := by
  rw [BitVec.toNat_add, BitVec.toNat_ofNat, Nat.mod_eq_of_lt (by omega : k < 2 ^ 10), Nat.mod_eq_of_lt (by omega)]

theorem bigStep_frame (g : Gran) : PassFrame 60 g (bigStep s g) := by
  have h := decodeSymbol_frame s.env (tableFor s g.dp.tr.rs1 g.dp.tr.rs2 g.dp.tr.pos.toNat)
    { g.dp with tr := { g.dp.tr with tbl := BitVec.ofNat 6 (tableFor s g.dp.tr.rs1 g.dp.tr.rs2 g.dp.tr.pos.toNat) } }
  exact ⟨h.region.2.1, h.region.2.2.1, h.region.2.2.2.1, h.failsLe, h.curLe, h.curBound⟩

theorem bigStep_pos (g : Gran) (h : g.dp.tr.pos.toNat < 1022) :
    (bigStep s g).dp.tr.pos.toNat = g.dp.tr.pos.toNat + 2 := by
  have hr := (decodeSymbol_frame s.env (tableFor s g.dp.tr.rs1 g.dp.tr.rs2 g.dp.tr.pos.toNat)
    { g.dp with tr := { g.dp.tr with
        tbl := BitVec.ofNat 6 (tableFor s g.dp.tr.rs1 g.dp.tr.rs2 g.dp.tr.pos.toNat) } }).region.1
  simp only [bigStep]
  rw [hr]
  exact pos_add g.dp.tr.pos 2 (by omega)

theorem bigStep_lines (g : Gran) (h : LinesInRange g.spec g.dp.tr.pos.toNat) :
    LinesInRange (bigStep s g).spec (g.dp.tr.pos.toNat + 2) := by
  have hr := decodeSymbol_frame s.env (tableFor s g.dp.tr.rs1 g.dp.tr.rs2 g.dp.tr.pos.toNat)
    { g.dp with tr := { g.dp.tr with tbl := BitVec.ofNat 6 (tableFor s g.dp.tr.rs1 g.dp.tr.rs2 g.dp.tr.pos.toNat) } }
  exact (h.store _ hr.xBound).store _ hr.yBound

theorem isQuad_count1Table : isQuad (count1Table s) = true :=
   decide_eq_true (by simp only [count1Table, Config.quadThreshold, Config.quadBase]; omega)

theorem isQuad_tableFor (rs1 rs2 : BitVec 16) (pos : Nat) : isQuad (tableFor s rs1 rs2 pos) = false := by
  have h0 := s.ts0.isLt
  have h1 := s.ts1.isLt
  have h2 := s.ts2.isLt
  have h : tableFor s rs1 rs2 pos ≤ 31 := by unfold tableFor; split <;> [skip; split] <;> omega
  exact decide_eq_false (by simp only [Config.quadThreshold]; omega)

theorem smallStep_frame (g : Gran) : PassFrame 36 g (smallStep s g) := by
  have h := decodeSymbol_quad s.env (count1Table s)
    { g.dp with tr := { g.dp.tr with tbl := BitVec.ofNat 6 (count1Table s) } } (isQuad_count1Table s)
  exact ⟨h.region.2.1, h.region.2.2.1, h.region.2.2.2.1, h.failsLe, h.curLe, h.curBound⟩

theorem smallStep_pos (g : Gran) (h : g.dp.tr.pos.toNat < 1020) :
    (smallStep s g).dp.tr.pos.toNat = g.dp.tr.pos.toNat + 4 := by
  have hr := (decodeSymbol_frame s.env (count1Table s)
    { g.dp with tr := { g.dp.tr with tbl := BitVec.ofNat 6 (count1Table s) } }).region.1
  simp only [smallStep]
  rw [hr]
  exact pos_add g.dp.tr.pos 4 (by omega)

theorem smallStep_lines (g : Gran) (h : LinesInRange g.spec g.dp.tr.pos.toNat) :
    LinesInRange (smallStep s g).spec (g.dp.tr.pos.toNat + 4) := by
  have hr := decodeSymbol_frame s.env (count1Table s)
    { g.dp with tr := { g.dp.tr with tbl := BitVec.ofNat 6 (count1Table s) } }
  exact (((h.store _ hr.vBound).store _ hr.wBound).store _ hr.xBound).store _ hr.yBound

/-! ### The passes -/

/-- BIGEND is even and at most 576 (43_granule_decoder.md R165). -/
theorem bigEnd_bounds : bigEnd s ≤ 576 ∧ bigEnd s % 2 = 0 := by
  unfold bigEnd Config.numLines
  omega

/-- The big-values pass stops exactly at BIGEND (R167). -/
theorem bigPass_spec (n : Nat) (g : Gran) (hle : g.dp.tr.pos.toNat ≤ bigEnd s) (heven : g.dp.tr.pos.toNat % 2 = 0)
    (hn : bigEnd s ≤ g.dp.tr.pos.toNat + 2 * n) (hl : LinesInRange g.spec g.dp.tr.pos.toNat) :
    PassFrame (60 * n) g (bigPass s n g) ∧ (bigPass s n g).dp.tr.pos.toNat = bigEnd s ∧
      LinesInRange (bigPass s n g).spec (bigEnd s) := by
  induction n generalizing g with
  | zero =>
    have : g.dp.tr.pos.toNat = bigEnd s := by omega
    exact ⟨.refl g, this, this ▸ hl⟩
  | succ n ih =>
    have hb := bigEnd_bounds s
    simp only [bigPass]
    split
    · have hp := bigStep_pos s g (by omega)
      obtain ⟨h1, h2, h3⟩ := ih (bigStep s g) (by omega) (by omega) (by omega) (hp ▸ bigStep_lines s g hl)
      exact ⟨((bigStep_frame s g).trans h1).mono (by omega), h2, h3⟩
    · have : g.dp.tr.pos.toNat = bigEnd s := by omega
      exact ⟨(PassFrame.refl g).mono (by omega), this, this ▸ hl⟩

/-- The small-values pass decodes some `q` quadruples and stops where its condition fails, at a position of at most 576
(R168, R170, R172). -/
theorem smallPass_spec (n : Nat) (g : Gran) (hle : g.dp.tr.pos.toNat ≤ 576) (hn : 573 ≤ g.dp.tr.pos.toNat + 4 * n)
    (hl : LinesInRange g.spec g.dp.tr.pos.toNat) :
    PassFrame (36 * n) g (smallPass s n g) ∧ smallGoes (smallPass s n g) = false ∧
      (smallPass s n g).dp.tr.pos.toNat ≤ 576 ∧ (∃ q, (smallPass s n g).dp.tr.pos.toNat = g.dp.tr.pos.toNat + 4 * q) ∧
      LinesInRange (smallPass s n g).spec (smallPass s n g).dp.tr.pos.toNat := by
  induction n generalizing g with
  | zero => exact ⟨.refl g, by simp only [smallPass, smallGoes]; exact decide_eq_false (by omega), hle, ⟨0, rfl⟩, hl⟩
  | succ n ih =>
    simp only [smallPass]
    split
    · rename_i hg
      have hg' : g.dp.tr.pos.toNat ≤ 572 := by simp [smallGoes] at hg; exact hg.1
      have hp := smallStep_pos s g (by omega)
      obtain ⟨h1, h2, h3, ⟨q, h4⟩, h5⟩ := ih (smallStep s g) (by omega) (by omega) (hp ▸ smallStep_lines s g hl)
      exact ⟨((smallStep_frame s g).trans h1).mono (by omega), h2, h3, ⟨q + 1, by omega⟩, h5⟩
    · rename_i hg
      exact ⟨(PassFrame.refl g).mono (by omega), by simpa using hg, hle, ⟨0, rfl⟩, hl⟩

/-- Both passes: where POS ends, what they keep, how far the cursor goes, and what the lines hold. -/
theorem granulePasses_spec :
    PassFrame (60 * maxPairs + 36 * maxQuads) (granuleStart s) (granulePasses s) ∧ smallGoes (granulePasses s) = false ∧
      (granulePasses s).dp.tr.pos.toNat ≤ 576 ∧ (∃ q, (granulePasses s).dp.tr.pos.toNat = bigEnd s + 4 * q) ∧
      LinesInRange (granulePasses s).spec (granulePasses s).dp.tr.pos.toNat := by
  have hb := bigEnd_bounds s
  obtain ⟨h1, h2, h3⟩ := bigPass_spec s maxPairs (granuleStart s) (by simp [granuleStart]) (by simp [granuleStart])
    (by simp only [granuleStart, maxPairs]; simp; omega) (by intro i hi; simp [granuleStart] at hi)
  obtain ⟨k1, k2, k3, ⟨q, k4⟩, k5⟩ := smallPass_spec s maxQuads (bigPass s maxPairs (granuleStart s)) (by omega)
    (by simp only [maxQuads]; omega) (h2 ▸ h3)
  exact ⟨h1.trans k1, k2, k3, ⟨q, by rw [← h2]; exact k4⟩, k5⟩

/-! ### What the passes depend on -/

/-- The passes depend on the side information, the reservoir and the parameters, the datapath and SPEC, and on nothing else of
the state (43_granule_decoder.md R160). -/
theorem granulePasses_congr {s t : State} (hc : SameControl s t) (he : t.env = s.env) (hd : t.datapath = s.datapath)
    (hs : t.spec = s.spec) : granulePasses t = granulePasses s := by
  obtain ⟨-, h1, h2, h3, h4, h5, h6, h7, h8, h9, h10, h11, h12⟩ := hc
  have hp : t.params = s.params := congrArg Env.params he
  have ht : t.tr = s.tr := congrArg Datapath.tr hd
  have hshort : isShort t = isShort s := by rw [isShort, h10, h11]; rfl
  have hr1 : regionStart1 t = regionStart1 s := by rw [regionStart1, hshort, h8, h12, hp]; rfl
  have hr2 : regionStart2 t = regionStart2 s := by rw [regionStart2, hshort, h8, h9, h12, hp]; rfl
  have hend : bigEnd t = bigEnd s := by rw [bigEnd, h3]; rfl
  have hb : bigStep t = bigStep s := by funext g; simp only [bigStep, tableFor, he, h4, h5, h6]
  have hq : smallStep t = smallStep s := by funext g; simp only [smallStep, count1Table, he, h7]
  have hbig : ∀ n g, bigPass t n g = bigPass s n g := by
    intro n
    induction n with
    | zero => intro g; rfl
    | succ n ih => intro g; rw [bigPass, hend, hb, ih]; rfl
  have hsmall : ∀ n g, smallPass t n g = smallPass s n g := by
    intro n
    induction n with
    | zero => intro g; rfl
    | succ n ih => intro g; rw [smallPass, hq, ih]; rfl
  simp only [granulePasses, hsmall, hbig, granuleStart, granuleEnd, hd, ht, hr1, hr2, hs, h1, h2]

end Sys2Proof.Machine
end

