-- ==== Sys2Proof/Laws/Exec.lean ====
section
/-! SUPPORT. When each command answers a next state, and which. -/

namespace Sys2Proof.Machine

variable (s t : State)

theorem exec_desc_of_range (n : BitVec 6) (h : tableInRange n = true) :
    exec (.desc n) s = .next (complete (setRes (BitVec.ofNat 32 (catalog s.params n.toNat).treeLength.val)
      (BitVec.ofNat 32 (catalog s.params n.toNat).linBits.val) (if isQuad n.toNat then 1 else 0) 0 s)) := by
  simp [exec, execDesc, h]

theorem exec_walk_of_range (n : BitVec 6) (h : tableInRange n = true) :
    exec (.walk n) s = retire (walkTree s.env n.toNat s.datapath).dp.cur
      (setRes ((walkTree s.env n.toNat s.datapath).x.setWidth 32) ((walkTree s.env n.toNat s.datapath).y.setWidth 32) 0 0
        (writeBack (walkTree s.env n.toNat s.datapath).dp false s)) := by
  simp [exec, execWalk, h]

theorem exec_sym_of_range (n : BitVec 6) (h : tableInRange n = true) :
    exec (.sym n) s = retire (decodeSymbol s.env n.toNat s.datapath).dp.cur
      (setRes (BitVec.ofInt 32 (decodeSymbol s.env n.toNat s.datapath).x)
        (BitVec.ofInt 32 (decodeSymbol s.env n.toNat s.datapath).y)
        (BitVec.ofInt 32 (decodeSymbol s.env n.toNat s.datapath).v)
        (BitVec.ofInt 32 (decodeSymbol s.env n.toNat s.datapath).w)
        (writeBack (decodeSymbol s.env n.toNat s.datapath).dp false s)) := by
  simp [exec, execSym, h]

/-- A table index above 33 is an illegal command, whichever command holds it (30_encoding.md R84). -/
theorem exec_of_not_wf (i : Instr) (h : i.wf = false) : exec i s = .next (illegalCommand s) := by
  cases i <;> simp_all [Instr.wf, exec, execSym, execWalk, execDesc]

theorem exec_granule_zero (h : s.part23Len = 0) :
    exec .granule s = .next (complete { s with spec := s.spec.zeroFrom 0, lineCount := 0 }) := by
  simp [exec, execGranule, h]

/-- What GRANULE writes when PART23_LEN is not 0 and the position range holds (43_granule_decoder.md R180). -/
def granuleResult : State :=
  { writeBack { (granulePasses s).dp with cur := granuleEnd s } (overran (granulePasses s)) s with
    spec := (granulePasses s).spec.zeroFrom (fixedPos (granulePasses s))
    region1Start := (granulePasses s).dp.tr.rs1
    region2Start := (granulePasses s).dp.tr.rs2
    lineCount := BitVec.ofNat 10 (fixedPos (granulePasses s)) }

theorem exec_granule_of_range (h : s.part23Len ≠ 0) (hr : granuleEnd s ≤ Config.maxPosition) :
    exec .granule s = retire (granulePasses s).dp.cur (granuleResult s) := by
  change execGranule s = _
  rw [execGranule, if_neg h, if_neg (by omega)]
  rfl

/-- Every next state of a GRANULE, by cases (R162, R180). -/
theorem exec_granule_next (h : exec .granule s = .next t) :
    (s.part23Len = 0 ∧ t = complete { s with spec := s.spec.zeroFrom 0, lineCount := 0 }) ∨
      (s.part23Len ≠ 0 ∧ granuleEnd s ≤ Config.maxPosition ∧ (granulePasses s).dp.cur ≤ Config.maxPosition ∧
        t = complete (granuleResult s)) := by
  by_cases hz : s.part23Len = 0
  · rw [exec_granule_zero s hz] at h
    exact .inl ⟨hz, by cases h; rfl⟩
  · by_cases hr : granuleEnd s ≤ Config.maxPosition
    · rw [exec_granule_of_range s hz hr, retire_next_iff] at h
      exact .inr ⟨hz, hr, h.1, h.2.symm⟩
    · change execGranule s = _ at h
      rw [execGranule, if_neg hz, if_pos (by omega)] at h
      cases h

/-- Every next state of a WALK of a table of the catalog (41_tree_walker.md R129). -/
theorem exec_walk_next (n : BitVec 6) (hn : tableInRange n = true) (h : exec (.walk n) s = .next t) :
    (walkTree s.env n.toNat s.datapath).dp.cur ≤ Config.maxPosition ∧
      t = complete (setRes ((walkTree s.env n.toNat s.datapath).x.setWidth 32)
        ((walkTree s.env n.toNat s.datapath).y.setWidth 32) 0 0
        (writeBack (walkTree s.env n.toNat s.datapath).dp false s)) := by
  rw [exec_walk_of_range s n hn, retire_next_iff] at h
  exact ⟨h.1, h.2.symm⟩

/-- Every next state of a SYM of a table of the catalog (42_symbol_reconstructor.md R147). -/
theorem exec_sym_next (n : BitVec 6) (hn : tableInRange n = true) (h : exec (.sym n) s = .next t) :
    (decodeSymbol s.env n.toNat s.datapath).dp.cur ≤ Config.maxPosition ∧
      t = complete (setRes (BitVec.ofInt 32 (decodeSymbol s.env n.toNat s.datapath).x)
        (BitVec.ofInt 32 (decodeSymbol s.env n.toNat s.datapath).y)
        (BitVec.ofInt 32 (decodeSymbol s.env n.toNat s.datapath).v)
        (BitVec.ofInt 32 (decodeSymbol s.env n.toNat s.datapath).w)
        (writeBack (decodeSymbol s.env n.toNat s.datapath).dp false s)) := by
  rw [exec_sym_of_range s n hn, retire_next_iff] at h
  exact ⟨h.1, h.2.symm⟩

/-! ### One step, by the head of the schedule -/

theorem step_nil (h : s.inputs = []) : step s = datapathTurn s := by simp [step, h]

theorem step_cons (e : Event) (rest : List Event) (h : s.inputs = e :: rest) :
    step s = deliver e { s with inputs := rest } := by simp [step, h]

theorem datapathTurn_run (op : Op) (n : BitVec 6) (h : s.phase = .run op n) :
    datapathTurn s = exec (op.withTable n) s := by simp [datapathTurn, h]

theorem datapathTurn_idle (h : s.phase = .idle) : datapathTurn s = .next s := by simp [datapathTurn, h]

end Sys2Proof.Machine
end

