-- ==== Sys2Proof/Laws/PerInstr.lean ====
section
/-! SUPPORT. Statements about every command as syntax, one lemma for each constructor of Instr. -/

/-- The assembled word of a command has its OP value in bits 3:0, its TABLE operand in bits 13:8, and 0 in the reserved
bits (30_encoding.md R80, R82, R91). -/
def Sys2Proof.Laws.EncodeFields.Statement (i : Sys2Proof.Instr) : Prop :=
  Sys2Proof.opField (Sys2Proof.encode i) = i.op.code ∧ Sys2Proof.tableField (Sys2Proof.encode i) = i.tableCode ∧
    Sys2Proof.encode i &&& 0xFFFFC0F0#32 = 0#32

namespace Sys2Proof

theorem opField_encode (i : Instr) : opField (encode i) = i.op.code := by
  simp only [encode]
  generalize i.tableCode = t
  generalize i.op.code = o
  revert t o
  decide +kernel

theorem tableField_encode (i : Instr) : tableField (encode i) = i.tableCode := by
  simp only [encode]
  generalize i.tableCode = t
  generalize i.op.code = o
  revert t o
  decide +kernel

theorem encode_reserved (i : Instr) : encode i &&& 0xFFFFC0F0#32 = 0#32 := by
  simp only [encode]
  generalize i.tableCode = t
  generalize i.op.code = o
  revert t o
  decide +kernel

end Sys2Proof

theorem Sys2Proof.Laws.EncodeFields.granule : Sys2Proof.Laws.EncodeFields.Statement .granule :=
  ⟨Sys2Proof.opField_encode _, Sys2Proof.tableField_encode _, Sys2Proof.encode_reserved _⟩

theorem Sys2Proof.Laws.EncodeFields.sym (t : BitVec 6) : Sys2Proof.Laws.EncodeFields.Statement (.sym t) :=
  ⟨Sys2Proof.opField_encode _, Sys2Proof.tableField_encode _, Sys2Proof.encode_reserved _⟩

theorem Sys2Proof.Laws.EncodeFields.walk (t : BitVec 6) : Sys2Proof.Laws.EncodeFields.Statement (.walk t) :=
  ⟨Sys2Proof.opField_encode _, Sys2Proof.tableField_encode _, Sys2Proof.encode_reserved _⟩

theorem Sys2Proof.Laws.EncodeFields.desc (t : BitVec 6) : Sys2Proof.Laws.EncodeFields.Statement (.desc t) :=
  ⟨Sys2Proof.opField_encode _, Sys2Proof.tableField_encode _, Sys2Proof.encode_reserved _⟩
end

