-- ==== Sys2Proof/Laws/Reach.lean ====
section
/-! SUPPORT. No command reads a position at or beyond its reach (70_reset_and_hazards.md R241, R246). -/

namespace Sys2Proof.Machine

variable (e : Env) (s : State)

/-- A walk reads no more bits than `walkReads` says. -/
theorem walkTree_reads (t : Nat) (d : Datapath) : (walkTree e t d).dp.cur ≤ d.cur + walkReads e.params t := by
  unfold walkReads
  split
  · rename_i h
    rw [walkTree_empty e t d h]
    exact Nat.le_refl _
  · exact (walkTree_frame e t d).curBound

/-- A symbol reads no more bits than `symbolReads` says. -/
theorem decodeSymbol_reads (t : Nat) (d : Datapath) :
    (decodeSymbol e t d).dp.cur ≤ d.cur + symbolReads e.params t := by
  have hw := (walkTree_frame e t d).curBound
  simp only [decodeSymbol, symbolReads]
  split
  · exact Nat.le_refl _
  · split
    · obtain ⟨c, hc, hle⟩ := quadSymbol_moves e (walkTree e t d).y (walkTree e t d).dp
      rw [hc]
      simp only [quadReads]
      omega
    · obtain ⟨c, hc, hle⟩ := pairSymbol_moves e (catalog e.params t).linBits.val (walkTree e t d).x (walkTree e t d).y
        (walkTree e t d).dp
      rw [hc]
      dsimp only
      omega

/-- From pair `k` on, the big-values pass stays within the reach of the pairs. -/
theorem bigPass_reads (n k : Nat) (g : Gran) (hpos : g.dp.tr.pos.toNat = 2 * k) (hk : 2 * k ≤ bigEnd s)
    (h1 : g.dp.tr.rs1 = regionStart1 s) (h2 : g.dp.tr.rs2 = regionStart2 s)
    (hn : bigEnd s ≤ 2 * k + 2 * n) (hc : g.dp.cur ≤ s.cur.toNat + pairsReads s k) :
    (bigPass s n g).dp.cur ≤ pairsReach s := by
  have hb := bigEnd_bounds s
  induction n generalizing k g with
  | zero =>
    obtain rfl : k = bigEnd s / 2 := by omega
    exact hc
  | succ n ih =>
    simp only [bigPass]
    split
    · have hf := bigStep_frame s g
      have hp := bigStep_pos s g (by omega)
      refine ih (k + 1) (bigStep s g) (by omega) (by omega) (hf.rs1.trans h1) (hf.rs2.trans h2) (by omega) ?_
      have hr := decodeSymbol_reads s.env (tableFor s (regionStart1 s) (regionStart2 s) (2 * k))
        { g.dp with tr := { g.dp.tr with tbl := BitVec.ofNat 6 (tableFor s (regionStart1 s) (regionStart2 s) (2 * k)) } }
      have hs : (bigStep s g).dp.cur = (decodeSymbol s.env (tableFor s (regionStart1 s) (regionStart2 s) (2 * k))
          { g.dp with tr := { g.dp.tr with
              tbl := BitVec.ofNat 6 (tableFor s (regionStart1 s) (regionStart2 s) (2 * k)) } }).dp.cur := by
        rw [bigStep, h1, h2, hpos]
      rw [hs, pairsReads]
      exact hr.trans (by rw [← Nat.add_assoc]; exact Nat.add_le_add_right hc _)
    · obtain rfl : k = bigEnd s / 2 := by omega
      exact hc

/-- The small-values pass reads at most the quadruples that fit below 576, and starts none beyond END. -/
theorem smallPass_reads (n : Nat) (g : Gran) (hle : g.dp.tr.pos.toNat ≤ 576) :
    (smallPass s n g).dp.cur ≤ max g.dp.cur
      (min (g.dp.cur + quadReads * ((576 - g.dp.tr.pos.toNat) / 4)) (g.dp.tr.endPos.toNat + quadReads)) := by
  have hq : quadReads = 36 := rfl
  rw [hq]
  induction n generalizing g with
  | zero => exact Nat.le_max_left _ _
  | succ n ih =>
    simp only [smallPass]
    split
    · rename_i hg
      simp only [smallGoes, decide_eq_true_eq] at hg
      have hf := smallStep_frame s g
      have hp := smallStep_pos s g (by omega)
      have hi := ih (smallStep s g) (by omega)
      have hl := hf.curLe
      have hb := hf.curBound
      rw [hf.endPos, hp] at hi
      omega
    · exact Nat.le_max_left _ _

/-- END + 1 is the first position after the granule, when PART23_LEN is not 0 (43_granule_decoder.md R163). -/
theorem granuleStart_endPos (h : s.part23Len ≠ 0) : (granuleStart s).dp.tr.endPos.toNat + 1 = granuleEnd s := by
  have hpos : s.part23Len.toNat ≠ 0 := fun hc => h (BitVec.eq_of_toNat_eq (by simpa using hc))
  have h1 := s.part2Start.isLt
  have h2 := s.part23Len.isLt
  simp only [granuleStart, granuleEnd, BitVec.toNat_ofNat]
  rw [Nat.mod_eq_of_lt (by omega)]
  omega

/-- No pass of a GRANULE carries the cursor beyond the command's reach. -/
theorem granulePasses_reads (h : s.part23Len ≠ 0) : (granulePasses s).dp.cur ≤ granuleReach s := by
  have hb := bigEnd_bounds s
  have he := granuleStart_endPos s h
  have hbig := bigPass_reads s maxPairs 0 (granuleStart s) (by simp [granuleStart]) (by omega) rfl rfl
    (by unfold maxPairs; omega) (Nat.le_refl _)
  obtain ⟨hf, hp, -⟩ := bigPass_spec s maxPairs (granuleStart s) (by simp [granuleStart]) (by simp [granuleStart])
    (by simp only [granuleStart, maxPairs]; simp; omega) (by intro i hi; simp [granuleStart] at hi)
  have hs := smallPass_reads s maxQuads (bigPass s maxPairs (granuleStart s)) (by omega)
  have hcur : s.cur.toNat ≤ (bigPass s maxPairs (granuleStart s)).dp.cur := hf.curLe
  have hq : quadReads = 36 := rfl
  have hn : Config.numLines = 576 := rfl
  rw [hf.endPos, hp] at hs
  unfold granuleReach
  rw [if_neg h]
  change (smallPass s maxQuads (bigPass s maxPairs (granuleStart s))).dp.cur ≤ _
  split
  · rename_i hend
    have hno : smallGoes (bigPass s maxPairs (granuleStart s)) = false := by
      simp only [smallGoes, hf.endPos]
      exact decide_eq_false (by omega)
    rw [maxQuads, smallPass, hno]
    exact hbig
  · rw [hq] at hs ⊢
    rw [hn]
    omega

/-- The reach lies at the cursor or beyond it. -/
theorem le_reach (i : Instr) : s.cur.toNat ≤ reach i s := by
  cases i <;> simp only [reach, granuleReach, pairsReach] <;> [split <;> [skip; split]; skip; skip; skip] <;> omega

end Sys2Proof.Machine
end

