-- ==== Sys2Proof/Machine/HostProgram.lean ====
section
/-! DEFINITION. The host's notation (30_encoding.md R91, R92): its statements and pseudo-statements as lists of events. -/

namespace Sys2Proof.Machine

/-- The operands of SETSIDE (R92). -/
structure SideInfo where
  len : Word
  bv : Word
  ts0 : Word
  ts1 : Word
  ts2 : Word
  c1 : Word
  r0 : Word
  r1 : Word
  ws : Word
  bt : Word
  sr : Word
  p2s : Word
deriving DecidableEq, Repr

/-- A statement of a host program (R91, R92). -/
inductive Stmt where
  | wr (r : Reg) (v : Word)
  | rd (r : Reg)
  | command (i : Instr)
  | waitDone
  | clrStat
  | setSide (a : SideInfo)
deriving DecidableEq, Repr

/-- WR NAME, v (R91). -/
def wrEvent (r : Reg) (v : Word) : Event := .access (.write r.offset 4 v)

/-- RD NAME (R91). -/
def rdEvent (r : Reg) : Event := .access (.read r.offset 4)

/-- The eight writes of SETSIDE (R92). -/
def SideInfo.events (a : SideInfo) : List Event :=
  [wrEvent .part23Len a.len, wrEvent .bigValues a.bv, wrEvent .tableSelect (a.ts0 ||| a.ts1 <<< 8 ||| a.ts2 <<< 16),
   wrEvent .count1Sel a.c1, wrEvent .regionCount (a.r0 ||| a.r1 <<< 8), wrEvent .blockCfg (a.ws ||| a.bt <<< 8),
   wrEvent .srIndex a.sr, wrEvent .part2Start a.p2s]

/-- What the host does for a statement (R91, R92). -/
def Stmt.events : Stmt → List Event
  | .wr r v => [wrEvent r v]
  | .rd r => [rdEvent r]
  | .command i => [wrEvent .cmd (encode i)]
  | .waitDone => [.waitDone]
  | .clrStat => [wrEvent .status 0x0000003E]
  | .setSide a => a.events

/-- A host program, placed on the schedule of a state. -/
def State.withProgram (s : State) (p : List Stmt) : State := { s with inputs := p.flatMap Stmt.events }

end Sys2Proof.Machine
end

