-- ==== Sys2Proof/Tests/Slice0.lean ====
section
/-! SUPPORT. The model's own tests: the WellFormed smoke, words written out from the encoding, small vectors of
95_test_vectors.md, and for each statement with hypotheses a witness that meets them. -/

open Sys2Proof Sys2Proof.Machine

namespace Sys2Proof.Tests

/-! ### Helpers -/

/-- Bits from position `p` on, the first-read bit first (00_scope.md R9). -/
def bitsAt (p : Nat) (bs : List Bit) : Memory := bs.zipIdx.map fun c => (p + c.2, c.1)

/-- The reset state with the cursor at `p`, the bits `bs` from there on, and the tree cells `cells` of one tree. -/
def start (p : Nat) (bs : List Bit) (tree : TreeId := .t24) (cells : List (Nat × BitVec 16) := []) : State :=
  { State.reset with
    cur := BitVec.ofNat 32 p
    resv := bitsAt p bs
    params := { Params.default with treeRom := cells.map fun c => ((tree, c.1), c.2) } }

/-- The same state with a command running. -/
def running (i : Instr) (s : State) : State := accept i.op i.tableCode s

/-- A granule's side information for a short block at PART2_START 0. -/
def short (len bv c1 : Nat) (s : State) : State :=
  { s with
    part23Len := BitVec.ofNat 12 len
    bigValues := BitVec.ofNat 9 bv
    c1 := BitVec.ofNat 1 c1
    ws := 1
    bt := 2 }

/-- Whether an outcome is a next state with a property. -/
def next? (o : Host.Outcome State Fault Refusal) (p : State → Bool := fun _ => true) : Bool :=
  match o with
  | .next t => p t
  | .fault _ => false
  | .refused _ => false

theorem exists_of_next? {o : Host.Outcome State Fault Refusal} {p : State → Bool} (h : next? o p = true) :
    ∃ t, o = .next t ∧ p t = true := by
  cases o with
  | next t => exact ⟨t, rfl, h⟩
  | fault _ => cases h
  | refused _ => cases h

/-- RES_X, RES_Y, RES_V, RES_W and the cursor, as numbers. -/
def results (s : State) : Int × Int × Int × Int × Nat :=
  (s.resX.toInt, s.resY.toInt, s.resV.toInt, s.resW.toInt, s.cur.toNat)

/-! ### WellFormed smoke (30_encoding.md R84) -/

theorem test_wf_refuses_sym_34 : (Instr.sym 34).wf = false := by decide
theorem test_wf_refuses_walk_63 : (Instr.walk 63).wf = false := by decide
theorem test_wf_refuses_desc_34 : (Instr.desc 34).wf = false := by decide
theorem test_wf_accepts_33 : (Instr.sym 33).wf = true ∧ (Instr.walk 33).wf = true ∧ (Instr.desc 33).wf = true := by decide

/-! ### Decoding: words written out from the fields of R80, OP in bits 3:0 and TABLE in bits 13:8 -/

theorem test_decode_granule : decode 0b00000000000000000000000000000001 = .command .granule := by decide
theorem test_decode_granule_table_ignored : decode 0b00000000000000000011111100000001 = .command .granule := by decide
theorem test_decode_sym_1 : decode 0b00000000000000000000000100000010 = .command (.sym 1) := by decide
theorem test_decode_sym_reserved_bits : decode 0b11111111111111111110000011110010 = .command (.sym 32) := by decide
theorem test_decode_walk_14 : decode 0b00000000000000000000111000000011 = .command (.walk 14) := by decide
theorem test_decode_desc_33 : decode 0b00000000000000000010000100000100 = .command (.desc 33) := by decide
theorem test_decode_op_5 : decode 0b00000000000000000000000000000101 = .illegal (.illegalOp 5) := by decide
theorem test_decode_walk_63 : decode 0b00000000000000000011111100000011 = .illegal (.tableAbove33 3 63) := by decide
theorem test_encode_words : encode .granule = 0x00000001 ∧ encode (.sym 32) = 0x00002002 ∧ encode (.walk 14) = 0x00000E03 ∧
    encode (.desc 30) = 0x00001E04 := by decide
theorem test_decodeTableWord : decodeTableWord 32 0x00001804 = some (.desc 24) ∧ decodeTableWord 32 0x2202 = none := by decide

/-! ### Vectors of 95_test_vectors.md -/

/-- V1. -/
theorem test_illegal_word_status :
    next? (hostAccess (.write 0x008 4 0) State.reset) (fun t => statusWord t = 0x12) = true := by decide +kernel

/-- V20. -/
theorem test_desc_31 : next? (exec (.desc 31) State.reset) (fun t => results t = (512, 13, 0, 0, 0)) = true := by
  decide +kernel

/-- V29: the fifth bit is not read. -/
theorem test_walk_32 :
    next? (exec (.walk 32) (start 0 [false, true, true, true, true])) (fun t => results t = (0, 8, 0, 0, 4)) = true := by
  decide +kernel

/-- V35: a cell of leaf form inside a chain is a chain cell. -/
theorem test_walk_24_chain :
    next? (exec (.walk 24) (start 0 [true] .t24 [(0, 0x01FA), (250, 0x0003), (253, 0x0012)]))
      (fun t => results t = (1, 2, 0, 0, 1) ∧ t.status.softFail = false) = true := by
  decide +kernel

/-- V52: the sign order v, w, x, y. -/
theorem test_sym_33_signs :
    next? (exec (.sym 33) (start 0 [true, true, false, true, false] .t33 [(0, 0x0101), (1, 0x000F)]))
      (fun t => results t = (-1, 1, -1, 1, 5)) = true := by
  decide +kernel

/-- V54: an escape and two signs. -/
theorem test_sym_24_escape :
    next? (exec (.sym 24) (start 0 [true, false, true, false, true, true, false] .t24 [(0, 0x0101), (1, 0x00F3)]))
      (fun t => results t = (-20, 3, 0, 0, 7)) = true := by
  decide +kernel

/-- V73: a rollback that cuts the only quadruple. -/
theorem test_granule_rollback :
    next? (exec .granule (short 1 0 0 (start 0 [false, true, true, true, true])))
      (fun t => statusWord t = 0x0A ∧ t.lineCount = 0 ∧ t.cur = 1 ∧ t.spec.line 0 = 0 ∧ t.region1Start = 36 ∧
        t.region2Start = 576) = true := by
  decide +kernel

/-- V77: two quadruples of table 33. -/
theorem test_granule_quads :
    next? (exec .granule (short 10 0 1
        (start 0 [true, false, false, false, false, true, false, false, false, true] .t33 [(0, 0x0101), (1, 0x000F)])))
      (fun t => statusWord t = 0x02 ∧ t.lineCount = 8 ∧ t.cur = 10 ∧ t.spec.line 0 = 1 ∧ t.spec.line 7 = 0xFFFF ∧
        t.spec.line 8 = 0) = true := by
  decide +kernel

/-! ### Witnesses: each shows that the hypotheses of the statement it is named after can be met -/

theorem witness_DecodeOfEncodeIsTheCommand : (Instr.sym 33).wf = true ∧ Instr.granule.wf = true := by decide

theorem witness_ReservedBitsOfTheWordAreIgnored :
    (∀ k, k < 4 ∨ (8 ≤ k ∧ k < 14) → (0x00002002 : Word).getLsbD k = (0xFFFFE0F2 : Word).getLsbD k) ∧
      (0x00002002 : Word) ≠ 0xFFFFE0F2 := by
  refine ⟨fun k h => ?_, by decide⟩
  have hk : k < 14 := by omega
  interval_cases k <;> first | rfl | omega

theorem witness_CmdWriteIsAcceptedRejectedOrDiscarded :
    (let s := { running (.sym 32) State.reset with inputs := [.access (.write 0x008 4 0x00000001)] };
      s.inputs = [.access (.write 0x008 4 0x00000001)] ∧ s.busy = true ∧
        ∃ t, hostAccess (.write 0x008 4 0x00000001) s = .next t ∧ true = true) ∧
    (let s := { State.reset with inputs := [.access (.write 0x008 4 0x00002202)] };
      s.inputs = [.access (.write 0x008 4 0x00002202)] ∧ s.busy = false ∧ decode 0x00002202 = .illegal (.tableAbove33 2 34)) ∧
    (let s := { State.reset with inputs := [.access (.write 0x008 4 0x00002102)] };
      s.inputs = [.access (.write 0x008 4 0x00002102)] ∧ s.busy = false ∧ decode 0x00002102 = .command (.sym 33)) :=
  ⟨⟨rfl, by decide, exists_of_next? (p := fun _ => true) (by decide +kernel)⟩, ⟨rfl, by decide, by decide⟩,
    ⟨rfl, by decide, by decide⟩⟩

theorem decode_2202_no_command : ¬ ∃ i, decode 0x00002202 = .command i := by
  rintro ⟨i, h⟩
  rw [show decode 0x00002202 = .illegal (.tableAbove33 2 34) by decide] at h
  cases h

theorem witness_IllegalWordSetsIllegalCmdAndDoneOnly :
    State.reset.busy = false ∧ ¬ ∃ i, decode 0x00002202 = .command i := ⟨by decide, decode_2202_no_command⟩

theorem witness_StepRunsTheLatchedCommand :
    (running (.desc 32) State.reset).phase = .run .desc 32 ∧ (running (.desc 32) State.reset).inputs = [] ∧
      ({ running (.desc 32) State.reset with inputs := [.finish] } : State).inputs = .finish :: [] := ⟨rfl, rfl, rfl⟩

theorem witness_FetchWordRunsInTheNextStep :
    decode (tableWord 32 0x00002102) = .command (.sym 33) ∧ decode (tableWord 8 0x01) = .command .granule := by decide

theorem witness_IdleMachineStaysAsItIs : State.reset.phase = .idle ∧ State.reset.inputs = [] := ⟨rfl, rfl⟩

theorem witness_IrqFollowsEnableAndDone :
    (0x00000002 : Word).getLsbD 1 = true ∧ State.reset.busy = false ∧ (0xFFFFFFFE : Word).getLsbD 0 = false := by decide

/-- A state with every sticky bit set. -/
def allSticky : State :=
  { State.reset with
    status := { done := false, softFail := true, rollback := true, illegalCmd := true, busyWrite := true } }

theorem witness_CommandsClearNoStickyBit :
    ∃ t, exec (.desc 32) allSticky = .next t ∧
      (allSticky.status.softFail && allSticky.status.rollback && allSticky.status.illegalCmd && allSticky.status.busyWrite)
        = true := exists_of_next? (by decide +kernel)

theorem witness_WindowMapIsOneToOne :
    Reg.ofOffset 0x1000 = some (.spec 0) ∧ Reg.ofOffset 0x18FC = some (.spec 575) ∧ 0x18FC % 4 = 0 ∧
      Reg.ofOffset 0x000 = some .ctrl ∧ Reg.ofOffset 0x04C = some .resW := by decide

/-- Every offset at which a reserved range of R50 begins or ends falls under the last clause. -/
theorem witness_WindowMapIsOneToOne_reserved :
    ∀ a ∈ [0x00C, 0x03C, 0x050, 0x0FFC, 0x1900, 0x1FFC], a % 4 = 0 ∧
      (a = 0x00C ∨ a = 0x03C ∨ (0x050 ≤ a ∧ a ≤ 0x0FFC) ∨ (0x1900 ≤ a ∧ a ≤ 0x1FFC)) := by decide

theorem witness_OtherWidthsAndAlignmentsAreRefused : (2 ≠ 4 ∨ 0x000 % 4 ≠ 0) ∧ (4 ≠ 4 ∨ 0x1FFE % 4 ≠ 0) := by decide

theorem witness_IdleReadReturnsTheRegisterOnly :
    State.reset.busy = false ∧ 0x1FFC % 4 = 0 ∧ 0x1FFC < 0x2000 ∧ Reg.ofOffset 0x1FFC = none ∧
      Reg.ofOffset 0x000 = some .ctrl := by decide

theorem witness_WriteStoresTheNamedFieldsOnly :
    State.reset.busy = false ∧ Reg.ctrl.isRW = true ∧ Reg.srIndex.isRW = true ∧ Reg.ctrl ≠ Reg.srIndex := by decide

/-- A read-only register, the last SPEC entry, and a reserved offset. -/
theorem witness_WritesToReadOnlyOffsetsAreIgnored :
    (∀ a ∈ [0x04C, 0x18FC, 0x1FFC], a % 4 = 0 ∧ a < 0x2000 ∧
      ∀ r, Reg.ofOffset a = some r → r ≠ .status ∧ r ≠ .cmd ∧ r.isRW = false) := by
  simp [Reg.ofOffset, Reg.ofLowOffset, Reg.isRW]

theorem witness_WritesWhileBusy :
    (running (.sym 32) State.reset).busy = true ∧ Reg.ofOffset 0x008 = some .cmd ∧ Reg.ofOffset 0x02C = some .srIndex ∧
      Reg.srIndex.isRW = true ∧ Reg.ofOffset 0x004 = some .status ∧ Reg.ofOffset 0x030 = some .lineCount ∧
      Reg.lineCount.isRW = false ∧ Reg.ofOffset 0x1FFC = none ∧
      next? (hostAccess (.write 0x02C 4 7) (running (.sym 32) State.reset)) = true := by decide +kernel

theorem witness_ResultReadsWhileBusyAreFree :
    (running (.sym 32) State.reset).busy = true ∧
      Reg.resW ∈ [Reg.lineCount, .region1Start, .region2Start, .resX, .resY, .resV, .resW] ∧
      ∃ i, Reg.spec 575 = .spec i := ⟨by decide, by decide, 575, rfl⟩

/-- The invariant of a running command, for any state made from reset by acceptance. -/
theorem inv_running (i : Instr) (s : State) (hi : i.wf = true) (hm : s.resv.wf) (hl : s.lineCount = 0) :
    (running i s).Inv where
  memoryCanonical := hm
  runningLegal op t h := by
    have h : Phase.run i.op i.tableCode = .run op t := h
    cases h
    cases i <;> exact hi
  runningNotDone _ := rfl
  idleShowsNothing _ := ⟨rfl, rfl⟩
  lineCountBound := by
    have h : (running i s).lineCount = 0 := hl
    rw [h]
    decide
  lineCountEven := by
    have h : (running i s).lineCount = 0 := hl
    rw [h]
    rfl

theorem inv_reset_running (i : Instr) (hi : i.wf = true) : (running i State.reset).Inv :=
  inv_running i State.reset hi (by decide) rfl

theorem witness_ControlReadsWhileBusyAreCurrent :
    (running (.sym 32) State.reset).Inv ∧ (running (.sym 32) State.reset).busy = true ∧ Reg.ctrl.isRW = true ∧
      Reg.ofOffset 0x008 = some .cmd ∧ Reg.ofOffset 0x00C = none ∧ Reg.ofOffset 0x1FFC = none ∧ 0x1FFC % 4 = 0 :=
  ⟨inv_reset_running _ (by decide), by decide, by decide, by decide, by decide, by decide, by decide⟩

theorem witness_CatalogHoldsTheStatedCells :
    (0 = 0 ∨ 0 = 4 ∨ 0 = 14) ∧ (14 = 0 ∨ 14 = 4 ∨ 14 = 14) ∧ (16 ≤ 16 ∧ 16 ≤ 23) ∧ (16 ≤ 23 ∧ 23 ≤ 23) ∧
      (24 ≤ 24 ∧ 24 ≤ 31) ∧ (24 ≤ 31 ∧ 31 ≤ 31) ∧ (33 = 32 ∨ 33 = 33) := by decide

theorem witness_DescCompletesWithTheDescriptor :
    (33 : BitVec 6).toNat ≤ 33 ∧ (0x00002204 : Word).extractLsb' 0 4 = 4 ∧
      33 < ((0x00002204 : Word).extractLsb' 8 6).toNat ∧ (14 : BitVec 6) = 14 := by decide

theorem witness_EmptyTablesDecodeToZerosWithoutBits : (14 : Nat) = 0 ∨ (14 : Nat) = 4 ∨ (14 : Nat) = 14 := by decide

theorem witness_ReadBitsIsTheMsbFirstSum : 1 ≤ 1 ∧ 1 ≤ 13 := by decide

theorem witness_BufferingABitChangesThatPositionOnly :
    (bitsAt 0 [true, false]).wf ∧ (bitsAt (2 ^ 32 - 1) [true]).wf ∧ 1 ≠ 0 := by decide

/-- The reservoir bits "0111" and the walk of table 32 they steer (V25). -/
def envQuad : Env := (start 0 [false, true, true, true]).env

theorem leads_of_byte {cells : Nat → BitVec 16} {len : Nat} {b : Bit} {i j : Nat}
    (h : (sideByte b (cells i)).toNat < Config.escThreshold) (hj : j = i + (sideByte b (cells i)).toNat) :
    Leads cells len b i j := hj ▸ .literal i h

theorem witness_WalkFindsEveryShortCodeWord :
    (catalog envQuad.params 32).treeLength.val ≠ 0 ∧ [false, true, true, true].length ≤ 31 ∧
      BitsLead (cellAt envQuad.params (catalog envQuad.params 32)) (catalog envQuad.params 32).treeLength.val 0
        [false, true, true, true] 5 ∧
      isLeaf (cellAt envQuad.params (catalog envQuad.params 32) 5) = true ∧
      HoldsBits envQuad.resv 0 [false, true, true, true] := by
  refine ⟨by decide, by decide, ?_, by decide, ?_⟩
  · refine .cons 0 2 5 _ _ (by decide) (leads_of_byte (by decide) (by decide)) (by decide) ?_
    refine .cons 2 3 5 _ _ (by decide) (leads_of_byte (by decide) (by decide)) (by decide) ?_
    refine .cons 3 4 5 _ _ (by decide) (leads_of_byte (by decide) (by decide)) (by decide) ?_
    exact .cons 4 5 5 _ _ (by decide) (leads_of_byte (by decide) (by decide)) (by decide) (.nil 5)
  · intro i h
    have h : i < 4 := h
    interval_cases i <;> rfl

/-- The same for a chained escape (V32). -/
def envChain : Env := (start 0 [true] .t24 [(0, 0x01FA), (250, 0x0103), (253, 0x0057)]).env

theorem witness_WalkFindsEveryShortCodeWord_chain :
    BitsLead (cellAt envChain.params (catalog envChain.params 24)) (catalog envChain.params 24).treeLength.val 0 [true] 253 ∧
      isLeaf (cellAt envChain.params (catalog envChain.params 24) 253) = true ∧ HoldsBits envChain.resv 0 [true] := by
  refine ⟨?_, by decide +kernel, ?_⟩
  · refine .cons 0 253 253 _ _ (by decide +kernel) ?_ (by decide +kernel) (.nil 253)
    refine .escape 0 253 (by decide +kernel) (by decide +kernel) ?_
    exact leads_of_byte (by decide +kernel) (by decide +kernel)
  · intro i h
    have h : i < 1 := h
    interval_cases i; rfl

theorem witness_WalkedLeafIsACodeWord :
    (catalog envQuad.params 32).treeLength.val ≠ 0 ∧
      (walkTree envQuad 32 (start 0 [false, true, true, true]).datapath).ok = true := by decide +kernel

/-- The start of a walk that leaves the tree (V40). -/
def startSoft : State := start 0 [true] .t33 [(0, 0x0120)]

theorem witness_SoftFailedWalkAnswersTheLastLeaf : (walkTree startSoft.env 33 startSoft.datapath).ok = false := by
  decide +kernel

theorem read_first (bs : List Bit) (b : Bit) : (bitsAt 0 (b :: bs)).read 0 = b := by simp [bitsAt, Memory.read, Memory.lookup]

/-- Two reservoirs that differ behind the bit "1" that the walk of table 32 reads (V24). -/
theorem witness_WalkDependsOnlyOnTheBitsItReads :
    let s := start 0 [true, false]
    SameBits s.env.resv (bitsAt 0 [true, true]) s.datapath.cur (walkTree s.env 32 s.datapath).dp.cur ∧
      s.env.resv ≠ bitsAt 0 [true, true] := by
  refine ⟨fun p _ h => ?_, by decide⟩
  rw [show (walkTree (start 0 [true, false]).env 32 (start 0 [true, false]).datapath).dp.cur = 1 by decide +kernel] at h
  obtain rfl : p = 0 := by omega
  exact (read_first _ _).trans (read_first _ _).symm

theorem witness_SymbolDependsOnlyOnTheBitsItReads :
    let s := start 0 [true, false]
    SameBits s.env.resv (bitsAt 0 [true, true]) s.datapath.cur (decodeSymbol s.env 32 s.datapath).dp.cur := by
  intro s p _ h
  rw [show (decodeSymbol s.env 32 s.datapath).dp.cur = 1 by decide +kernel] at h
  obtain rfl : p = 0 := by omega
  exact (read_first _ _).trans (read_first _ _).symm

theorem witness_WalkCompletesWithTheRawNibbles :
    (33 : BitVec 6).toNat ≤ 33 ∧ (start 0 []).cur.toNat + 32 ≤ 2 ^ 32 - 1 ∧
      (let s := start (2 ^ 32 - 2) [true];
        (walkTree s.env 32 s.datapath).dp.cur ≤ 2 ^ 32 - 1) ∧
      (let s := start (2 ^ 32 - 1) [true];
        2 ^ 32 - 1 < (walkTree s.env 32 s.datapath).dp.cur) := by decide +kernel

theorem witness_WalkOfAnEmptyTableCompletes : (14 : BitVec 6) = 0 ∨ (14 : BitVec 6) = 4 ∨ (14 : BitVec 6) = 14 := by decide

theorem witness_SymCompletesWithTheSignedValues :
    (33 : BitVec 6).toNat ≤ 33 ∧ (start 0 []).cur.toNat + 60 ≤ 2 ^ 32 - 1 ∧
      (let s := start (2 ^ 32 - 6) [false, true, true, true, true];
        (decodeSymbol s.env 32 s.datapath).dp.cur ≤ 2 ^ 32 - 1) ∧
      (let s := start (2 ^ 32 - 1) [true];
        2 ^ 32 - 1 < (decodeSymbol s.env 32 s.datapath).dp.cur) := by decide +kernel

theorem witness_PairSymbolIsReadInOrder :
    31 ≤ 31 ∧ (catalog Params.default 31).treeLength.val ≠ 0 ∧ (catalog Params.default 1).treeLength.val ≠ 0 := by decide

theorem witness_QuadSymbolIsReadInOrder : (33 : Nat) = 32 ∨ (33 : Nat) = 33 := by decide

theorem witness_ZeroLengthGranuleCompletes : State.reset.part23Len = 0 := rfl

/-- A granule that completes, and one of each kind that the position range stops. -/
theorem witness_GranuleCompletesWithinThePositionRange :
    (let s := short 1 0 0 (start 0 [true]);
      s.part23Len ≠ 0 ∧ s.cur.toNat + 22464 ≤ 2 ^ 32 - 1 ∧ s.part2Start.toNat + s.part23Len.toNat ≤ 2 ^ 32 - 1 ∧
        (granulePasses s).dp.cur ≤ 2 ^ 32 - 1) ∧
    (let s := { short 1 0 0 (start 0 [true]) with part2Start := 0xFFFFFFFF };
      s.part23Len ≠ 0 ∧ 2 ^ 32 - 1 < s.part2Start.toNat + s.part23Len.toNat) ∧
    (let s := { short 1 0 1 (start (2 ^ 32 - 2) [true, true] .t33 [(0, 0x0101), (1, 0x0001)]) with part2Start := 0xFFFFFFFE };
      s.part23Len ≠ 0 ∧ s.part2Start.toNat + s.part23Len.toNat ≤ 2 ^ 32 - 1 ∧ 2 ^ 32 - 1 < (granulePasses s).dp.cur) := by
  decide +kernel

/-- The granule of V78: two quadruples of table 32, and a rollback. -/
def granuleV78 : State := short 2 0 0 (start 0 [true, false, true, true, true, true])

theorem granuleV78_answers : granuleV78.part23Len ≠ 0 ∧ ∃ t, exec .granule granuleV78 = .next t ∧ true = true :=
  ⟨by decide, exists_of_next? (p := fun _ => true) (by decide +kernel)⟩

theorem witness_GranuleWritesTheRegionBoundaries :
    (granuleV78.part23Len ≠ 0 ∧ (∃ t, exec .granule granuleV78 = .next t ∧ true = true) ∧ granuleV78.ws = 1 ∧
      granuleV78.bt = 2) ∧
    (let s := { granuleV78 with bt := 1, bigValues := 0 };
      s.part23Len ≠ 0 ∧ (∃ t, exec .granule s = .next t ∧ true = true) ∧ ¬ (s.ws = 1 ∧ s.bt = 2)) :=
  ⟨⟨by decide, granuleV78_answers.2, by decide, by decide⟩,
    ⟨by decide, exists_of_next? (p := fun _ => true) (by decide +kernel), by decide⟩⟩

theorem witness_TableSelectionByRegion :
    (35 < (36 : BitVec 16).toNat) ∧ ((36 : BitVec 16).toNat ≤ 36 ∧ 36 < (576 : BitVec 16).toNat) ∧
      ((36 : BitVec 16).toNat ≤ 40 ∧ (40 : BitVec 16).toNat ≤ 40) ∧ (granuleV78.ws = 1 ∧ granuleV78.bt = 2 ∧ 575 < 576) := by
  decide

/-- Both kinds of GRANULE: PART23_LEN = 0 (V66) and not 0 (V78). -/
theorem witness_GranulePostconditions :
    (∃ t, exec .granule State.reset = .next t ∧ State.reset.part23Len = 0) ∧
      (granuleV78.part23Len ≠ 0 ∧ ∃ t, exec .granule granuleV78 = .next t ∧ true = true) := by
  refine ⟨?_, granuleV78_answers⟩
  obtain ⟨t, h, _⟩ := exists_of_next? (o := exec .granule State.reset) (p := fun _ => true) (by decide +kernel)
  exact ⟨t, h, rfl⟩

theorem witness_GranuleLinesAreItsSymbolsInOrder :
    granuleV78.part23Len ≠ 0 ∧ ∃ t, exec .granule granuleV78 = .next t ∧ true = true := granuleV78_answers

theorem witness_ZeroFillKeepsTheDecodedLines :
    granuleV78.part23Len ≠ 0 ∧ ∃ t, exec .granule granuleV78 = .next t ∧ true = true := granuleV78_answers

theorem witness_GranuleOfEmptyTables :
    (let s := short 10 287 0 (start 0 []);
      s.part23Len ≠ 0 ∧ s.part2Start.toNat + s.part23Len.toNat ≤ 2 ^ 32 - 1 ∧ 287 ≤ s.bigValues.toNat ∧
        ∀ ts ∈ [s.ts0, s.ts1, s.ts2], ts = 0 ∨ ts = 4 ∨ ts = 14) := by decide

theorem answers_desc : ∃ t, exec (.desc 32) State.reset = .next t ∧ true = true :=
  exists_of_next? (p := fun _ => true) (by decide +kernel)

theorem answers_walk : ∃ t, exec (.walk 32) (start 0 [true]) = .next t ∧ true = true :=
  exists_of_next? (p := fun _ => true) (by decide +kernel)

theorem answers_sym : ∃ t, exec (.sym 33) startSoft = .next t ∧ true = true :=
  exists_of_next? (p := fun _ => true) (by decide +kernel)

theorem witness_CommandsLeaveControlAndReservoirAlone :
    (Instr.desc 32).wf = true ∧ ∃ t, exec (.desc 32) State.reset = .next t ∧ true = true := ⟨by decide, answers_desc⟩

theorem witness_CommandsWriteOnlyTheirOwnResults :
    (33 : BitVec 6).toNat ≤ 33 ∧ (∃ t, exec (.desc 32) State.reset = .next t ∧ true = true) ∧
      (∃ t, exec (.walk 32) (start 0 [true]) = .next t ∧ true = true) ∧
      (∃ t, exec (.sym 33) startSoft = .next t ∧ true = true) ∧ (∃ t, exec .granule granuleV78 = .next t ∧ true = true) :=
  ⟨by decide, answers_desc, answers_walk, answers_sym, granuleV78_answers.2⟩

theorem witness_ResetValues : (∀ i, Reg.ctrl ≠ .spec i) ∧ ∀ i, Reg.resW ≠ .spec i := by
  constructor <;> (intro i h; cases h)

theorem witness_ResetEventPutsTheResetState :
    (let s := { running (.sym 32) State.reset with inputs := [.reset] };
      s.inputs = .reset :: [] ∧ s.busy = true) ∧
    (let s := { State.reset with inputs := [.reset] };
      s.inputs = .reset :: [] ∧ s.busy = false) := ⟨⟨rfl, by decide⟩, ⟨rfl, by decide⟩⟩

theorem witness_InvariantIsKeptByEveryStep :
    (running (.desc 32) State.reset).Inv ∧ ∃ t, step (running (.desc 32) State.reset) = .next t ∧ true = true :=
  ⟨inv_reset_running _ (by decide), exists_of_next? (p := fun _ => true) (by decide +kernel)⟩

theorem witness_NoStepChangesTheTables : ∃ t, step (running (.desc 32) State.reset) = .next t ∧ true = true :=
  exists_of_next? (p := fun _ => true) (by decide +kernel)

/-- SPEC filled with ones, and a zero-length GRANULE running. -/
def onesSpec : State := running .granule { State.reset with spec := Vector.replicate 576 1 }

theorem witness_OnlyGranuleAndResetChangeSpec : ∃ t, step onesSpec = .next t ∧ t.spec ≠ onesSpec.spec := by
  obtain ⟨t, h, ht⟩ := exists_of_next? (o := step onesSpec)
    (p := fun t => t.spec.line 0 = 0 ∧ onesSpec.spec.line 0 = 1) (by decide +kernel)
  refine ⟨t, h, fun heq => ?_⟩
  rw [heq] at ht
  simp only [decide_eq_true_eq] at ht
  rw [ht.2] at ht
  exact absurd ht.1 (by decide)

theorem witness_OnlyTheOwnerChangesReservoirBits :
    let s := { State.reset with inputs := [.setBit 5 (some true)] }
    ∃ t, step s = .next t ∧ decide (t.resv ≠ s.resv) = true := exists_of_next? (by decide +kernel)

/-- The three ways the cursor moves: a WALK, its owner, and a reset of a running command, whose cursor is a free value and so
may stand anywhere else. -/
theorem witness_WhatMovesTheCursor :
    (∃ t, step (running (.walk 32) (start 0 [true])) = .next t ∧ decide (t.cur ≠ (start 0 [true]).cur) = true) ∧
      (∃ t, step { State.reset with inputs := [.moveCursor 9] } = .next t ∧ decide (t.cur ≠ State.reset.cur) = true) ∧
      ∃ s t : State, s.busy = true ∧ s.inputs = .reset :: [] ∧ step s = .next t ∧ t.cur ≠ s.cur := by
  refine ⟨exists_of_next? (by decide +kernel), exists_of_next? (by decide +kernel), ?_⟩
  refine ⟨{ running (.sym 32) State.reset with inputs := [.reset], cur := Config.abandonedCursor 1 + 1 }, _, by decide, rfl,
    rfl, fun h => ?_⟩
  have h : Config.abandonedCursor 1 = Config.abandonedCursor 1 + 1 := h
  generalize Config.abandonedCursor 1 = x at h
  bv_omega

theorem witness_OutsideInterferenceIsRefused :
    let s := running (.walk 32) (start 0 [true])
    s.busy = true ∧ mayRead s (0 : BitVec 32).toNat = true ∧ s.resv.lookup (0 : BitVec 32).toNat ≠ some false ∧
      mayRead s (31 : BitVec 32).toNat = true ∧ s.resv.lookup (31 : BitVec 32).toNat ≠ some false ∧
      mayRead s (32 : BitVec 32).toNat = false ∧ s.resv.lookup (0 : BitVec 32).toNat = some true := by decide +kernel

/-- A position below the cursor, and the commands that read none: DESC, a zero-length GRANULE, SYM and WALK of an empty table. -/
theorem witness_OutsideInterferenceIsRefused_none :
    4 < (running (.walk 32) (start 5 [])).cur.toNat ∧ (running (.desc 33) State.reset).phase = .run .desc 33 ∧
      (running .granule State.reset).phase = .run .granule 0 ∧ (running .granule State.reset).part23Len = 0 ∧
      (running (.sym 14) State.reset).phase = .run .sym 14 ∧ (running (.walk 4) State.reset).phase = .run .walk 4 := by decide

/-- The position at the cursor is HTW's while a GRANULE of one bit runs, and the owner's while one of PART23_LEN = 0 does (R162). -/
theorem test_bit_at_cursor_of_granule :
    mayRead (running .granule (short 1 0 0 State.reset)) 0 = true ∧
      next? (deliver (.setBit 0 (some true)) (running .granule (short 0 0 0 State.reset))) = true := by decide +kernel

theorem inv_walk : (running (.walk 32) (start 0 [true])).Inv := inv_running _ _ (by decide) (by decide) rfl

theorem witness_HostAccessesDoNotDisturbARunningCommand :
    let s := running (.walk 32) (start 0 [true])
    s.Inv ∧ s.phase = .run .walk 32 ∧ (∃ t, hostAccess (.write 0x014 4 7) s = .next t ∧ true = true) ∧
      ∃ u, exec (Op.walk.withTable 32) s = .next u ∧ true = true :=
  ⟨inv_walk, rfl, exists_of_next? (p := fun _ => true) (by decide +kernel),
    exists_of_next? (p := fun _ => true) (by decide +kernel)⟩

theorem witness_BitsOutOfReachDoNotChangeTheOutcome :
    let s := running (.walk 32) (start 0 [true])
    s.Inv ∧ s.phase = .run .walk 32 ∧ (∃ t, deliver (.setBit 32 (some false)) s = .next t ∧ true = true) ∧
      ∃ u, exec (Op.walk.withTable 32) s = .next u ∧ true = true :=
  ⟨inv_walk, rfl, exists_of_next? (p := fun _ => true) (by decide +kernel),
    exists_of_next? (p := fun _ => true) (by decide +kernel)⟩

/-- A running command whose SoftFail shows early. -/
theorem witness_EarlyRaiseLeavesTheFinalStatus :
    let s := running (.walk 33) startSoft
    s.Inv ∧ s.phase = .run .walk 33 ∧ (∃ u, exec (Op.walk.withTable 33) s = .next u ∧ true = true) ∧
      (raiseShows s).status.softFail = true :=
  ⟨inv_running _ _ (by decide) (by decide) rfl, rfl, exists_of_next? (p := fun _ => true) (by decide +kernel),
    by decide +kernel⟩

theorem witness_WaitDoneEndsWhenTheCommandCompletes :
    let s := { running (.walk 32) (start 0 [true]) with inputs := [.waitDone] }
    s.Inv ∧ s.phase = .run .walk 32 ∧ s.inputs = .waitDone :: [] ∧
      ∃ u, exec (Op.walk.withTable 32) s = .next u ∧ true = true :=
  ⟨⟨inv_walk.memoryCanonical, inv_walk.runningLegal, inv_walk.runningNotDone, inv_walk.idleShowsNothing,
      inv_walk.lineCountBound, inv_walk.lineCountEven⟩, rfl, rfl,
    exists_of_next? (p := fun _ => true) (by decide +kernel)⟩

end Sys2Proof.Tests
end

section
/-! PROOF. What the datapath decodes depends on no reservoir bit outside the positions it reads (20_memory.md R63): one
lemma for each function that reads the reservoir, from the bit port up to DecodeSymbol. Each compares the run on `e` with the
run of the same function on another reservoir `m`. -/

namespace Sys2Proof.Machine

/-! ### Ranges of equal bits -/

/-- Agreement on a range splits at any position inside it. -/
theorem SameBits.split {m m' : Memory} {lo hi : Nat} (h : SameBits m m' lo hi) (mid : Nat) (hlo : lo ≤ mid)
    (hhi : mid ≤ hi) : SameBits m m' lo mid ∧ SameBits m m' mid hi :=
  ⟨fun p h1 h2 => h p h1 (h2.trans_le hhi), fun p h1 h2 => h p (hlo.trans h1) h2⟩

theorem MovesCursor.cur_le {n : Nat} {d d' : Datapath} (h : MovesCursor n d d') : d.cur ≤ d'.cur := by
  obtain ⟨c, rfl, -⟩ := h
  exact Nat.le_add_right _ _

variable (e : Env) (m : Memory)

/-! ### The reservoir port -/

theorem readBit_congr (d : Datapath) (h : e.resv.read d.cur = m.read d.cur) :
    readBit { e with resv := m } d = readBit e d := by
  simp [readBit, h]

theorem readBits_congr (n : Nat) (d : Datapath) (h : SameBits e.resv m d.cur (d.cur + n)) :
    readBits { e with resv := m } n d = readBits e n d := by
  induction n with
  | zero => rfl
  | succ n ih =>
    have hpre := ih (h.split (d.cur + n) (by omega) (by omega)).1
    have hlast := h (d.cur + n) (by omega) (by omega)
    simp only [readBits, hpre]
    rw [readBit_congr e m _ (by simpa using hlast)]

/-! ### The Tree Walker -/

/-- Offset resolution reads tree cells, never the reservoir. -/
theorem resolve_resv (desc : Descriptor) (b : Bit) (n : Nat) (d : Datapath) :
    resolve { e with resv := m } desc b n d = resolve e desc b n d := by
  induction n generalizing d with
  | zero => rfl
  | succ n ih => simp only [resolve, ih]

/-- The datapath of an iteration that does not end at a leaf, before its offset resolution: the cell is read and one bit taken
(41_tree_walker.md R122). -/
def nodeRead (p : Params) (desc : Descriptor) (d : Datapath) : Datapath :=
  { d with cur := d.cur + 1, tr := { d.tr with cell := cellAt p desc d.tr.idx.toNat } }

/-- What a walk does after the offset resolution that answered `r`, with `n` iterations left: the end of the iteration, and
the later ones (R122). -/
def walkRest (desc : Descriptor) (n : Nat) (r : Bool × Datapath) : Walk :=
  if r.1 then
    let d := { r.2 with tr := { r.2.tr with budget := BitVec.ofNat 6 n } }
    if n = 0 ∨ desc.treeLength.val ≤ d.tr.idx.toNat then softFail d else walkLoop e desc n d
  else softFail r.2

/-- An iteration on a leaf is the same on every reservoir: it reads no bit. -/
theorem walkLoop_leaf (desc : Descriptor) (n : Nat) (d : Datapath)
    (hl : isLeaf (cellAt e.params desc d.tr.idx.toNat) = true) :
    walkLoop e desc (n + 1) d = leaf { d with tr := { d.tr with cell := cellAt e.params desc d.tr.idx.toNat } } := by
  simp only [walkLoop, hl, if_true]

/-- An iteration elsewhere uses the reservoir for the bit at the cursor only, apart from the later iterations. -/
theorem walkLoop_node (desc : Descriptor) (n : Nat) (d : Datapath)
    (hl : isLeaf (cellAt e.params desc d.tr.idx.toNat) = false) :
    walkLoop e desc (n + 1) d =
      walkRest e desc n (resolve e desc (e.resv.read d.cur) maxChain (nodeRead e.params desc d)) := by
  simp only [walkLoop, hl, Bool.false_eq_true, if_false]
  rfl

theorem walkRest_cur_le (desc : Descriptor) (n : Nat) (r : Bool × Datapath) :
    r.2.cur ≤ (walkRest e desc n r).dp.cur := by
  simp only [walkRest]
  split
  · split
    · exact Nat.le_refl _
    · exact (walkLoop_frame e desc n { r.2 with tr := { r.2.tr with budget := BitVec.ofNat 6 n } }).curLe
  · exact Nat.le_refl _

theorem walkRest_congr (desc : Descriptor) (n : Nat) (r : Bool × Datapath)
    (hloop : ∀ d, SameBits e.resv m d.cur (walkLoop e desc n d).dp.cur →
      walkLoop { e with resv := m } desc n d = walkLoop e desc n d)
    (h : SameBits e.resv m r.2.cur (walkRest e desc n r).dp.cur) :
    walkRest { e with resv := m } desc n r = walkRest e desc n r := by
  by_cases hr : r.1 = true
  · by_cases hend : n = 0 ∨ desc.treeLength.val ≤ r.2.tr.idx.toNat
    · simp only [walkRest, hr, hend, if_true]
    · simp only [walkRest, hr, hend, if_true, if_false] at h ⊢
      exact hloop _ h
  · simp only [walkRest, hr, Bool.false_eq_true, if_false]

/-- By induction on the iterations left: an iteration takes the bit at the cursor, and the later ones start behind it. -/
theorem walkLoop_congr (desc : Descriptor) (n : Nat) (d : Datapath)
    (h : SameBits e.resv m d.cur (walkLoop e desc n d).dp.cur) :
    walkLoop { e with resv := m } desc n d = walkLoop e desc n d := by
  induction n generalizing d with
  | zero => rfl
  | succ n ih =>
    cases hl : isLeaf (cellAt e.params desc d.tr.idx.toNat) with
    | true => rw [walkLoop_leaf e desc n d hl, walkLoop_leaf { e with resv := m } desc n d hl]
    | false =>
      rw [walkLoop_node e desc n d hl] at h ⊢
      rw [walkLoop_node { e with resv := m } desc n d hl]
      have hcur := walkRest_cur_le e desc n (resolve e desc (e.resv.read d.cur) maxChain (nodeRead e.params desc d))
      simp only [resolve_cur] at hcur
      have hbit := h d.cur (Nat.le_refl _) hcur
      have hrest := (h.split (d.cur + 1) (Nat.le_succ _) hcur).2
      rw [resolve_resv, ← hbit]
      exact walkRest_congr e m desc n _ ih (by rwa [resolve_cur])

/-- A walk depends on no bit but those between the cursor and where it leaves the cursor. -/
theorem walkTree_congr (t : Nat) (d : Datapath) (h : SameBits e.resv m d.cur (walkTree e t d).dp.cur) :
    walkTree { e with resv := m } t d = walkTree e t d := by
  by_cases hempty : (catalog e.params t).treeLength.val = 0
  · rw [walkTree_empty e t d hempty, walkTree_empty { e with resv := m } t d hempty]
  · simp only [walkTree, if_neg hempty] at h ⊢
    exact walkLoop_congr e m _ _ _ h

/-! ### The Symbol Reconstructor -/

theorem readSign_congr (k : Nat) (d : Datapath) (h : SameBits e.resv m d.cur (readSign e k d).2.cur) :
    readSign { e with resv := m } k d = readSign e k d := by
  by_cases hk : k = 0
  · simp only [readSign, if_pos hk]
  · have hbit := h d.cur (Nat.le_refl _) (by simp [hk])
    simp only [readSign, if_neg hk, readBit_congr e m d hbit]

/-- A sign whose bit lies at the front of a range of equal bits is the same, and the rest of the range is left. -/
theorem readSign_congr_front {hi : Nat} {d : Datapath} (k : Nat) (h : SameBits e.resv m d.cur hi)
    (hhi : (readSign e k d).2.cur ≤ hi) :
    readSign { e with resv := m } k d = readSign e k d ∧ SameBits e.resv m (readSign e k d).2.cur hi := by
  obtain ⟨hsign, hrest⟩ := h.split _ (readSign_moves e k d).cur_le hhi
  exact ⟨readSign_congr e m k d hsign, hrest⟩

theorem readEscape_congr (k r : Nat) (d : Datapath) (h : SameBits e.resv m d.cur (readEscape e k r d).2.cur) :
    readEscape { e with resv := m } k r d = readEscape e k r d := by
  by_cases hesc : 0 < k ∧ r = 15
  · have hbits := readBits_congr e m k d (by simpa [hesc] using h)
    simp only [readEscape, if_pos hesc, hbits]
  · simp only [readEscape, if_neg hesc]

theorem readPairValue_congr (k r : Nat) (d : Datapath) (h : SameBits e.resv m d.cur (readPairValue e k r d).2.cur) :
    readPairValue { e with resv := m } k r d = readPairValue e k r d := by
  obtain ⟨hesc, hsign⟩ := h.split (readEscape e k r d).2.cur (by simp) (readSign_moves e _ _).cur_le
  simp only [readPairValue, readEscape_congr e m k r d hesc]
  exact readSign_congr e m _ _ hsign

theorem pairSymbol_congr (k : Nat) (rx ry : BitVec 4) (d : Datapath)
    (h : SameBits e.resv m d.cur (pairSymbol e k rx ry d).dp.cur) :
    pairSymbol { e with resv := m } k rx ry d = pairSymbol e k rx ry d := by
  obtain ⟨hx, hy⟩ := h.split (readPairValue e k rx.toNat d).2.cur (readPairValue_moves e k _ d).cur_le
    (readPairValue_moves e k _ _).cur_le
  simp only [pairSymbol, readPairValue_congr e m k _ d hx, readPairValue_congr e m k _ _ hy]

theorem quadSymbol_congr (ry : BitVec 4) (d : Datapath) (h : SameBits e.resv m d.cur (quadSymbol e ry d).dp.cur) :
    quadSymbol { e with resv := m } ry d = quadSymbol e ry d := by
  obtain ⟨hv, h⟩ := readSign_congr_front e m (ry.getLsbD 3).toNat h (by simp [quadSymbol, Nat.add_assoc])
  obtain ⟨hw, h⟩ := readSign_congr_front e m (ry.getLsbD 2).toNat h (by simp [quadSymbol, Nat.add_assoc])
  obtain ⟨hx, h⟩ := readSign_congr_front e m (ry.getLsbD 1).toNat h (by simp [quadSymbol])
  obtain ⟨hy, -⟩ := readSign_congr_front e m (ry.getLsbD 0).toNat h (Nat.le_refl _)
  simp only [quadSymbol, hv, hw, hx, hy]

/-- The walk ends at or before the position where its symbol leaves the cursor. -/
theorem walkTree_cur_le_decodeSymbol (t : Nat) (d : Datapath) :
    (walkTree e t d).dp.cur ≤ (decodeSymbol e t d).dp.cur := by
  by_cases hempty : (catalog e.params t).treeLength.val = 0
  · simp [decodeSymbol, walkTree, hempty]
  · simp only [decodeSymbol, if_neg hempty]
    split
    · exact (quadSymbol_moves e _ _).cur_le
    · exact (pairSymbol_moves e _ _ _ _).cur_le

/-- A symbol depends on no bit but those between the cursor and where it leaves the cursor: those of its walk, then those of
its escapes and signs. -/
theorem decodeSymbol_congr (t : Nat) (d : Datapath) (h : SameBits e.resv m d.cur (decodeSymbol e t d).dp.cur) :
    decodeSymbol { e with resv := m } t d = decodeSymbol e t d := by
  obtain ⟨hwalk, hrest⟩ := h.split (walkTree e t d).dp.cur (walkTree_frame e t d).curLe
    (walkTree_cur_le_decodeSymbol e t d)
  by_cases hempty : (catalog e.params t).treeLength.val = 0
  · simp only [decodeSymbol, if_pos hempty]
  · simp only [decodeSymbol, if_neg hempty, walkTree_congr e m t d hwalk] at hrest ⊢
    split
    · rename_i hquad
      rw [if_pos hquad] at hrest
      exact quadSymbol_congr e m _ _ hrest
    · rename_i hpair
      rw [if_neg hpair] at hrest
      exact pairSymbol_congr e m _ _ _ _ hrest

/-- Settles O37: the walk and then the signs and escapes each read only what lies between their own start and end, and these
ranges follow one another inside the symbol's. -/
theorem symbolDependsOnlyOnTheBitsItReads : Obligations.SymbolDependsOnlyOnTheBitsItReads := by
  unfold Obligations.SymbolDependsOnlyOnTheBitsItReads
  exact decodeSymbol_congr

end Sys2Proof.Machine
end

section
/-! PROOF. STATUS as the host sees it (10_state.md R23, R38): its bits, and what a write to it does. -/

namespace Sys2Proof.Machine

variable (s : State)

/-! ### The host's writes by register (20_memory.md R50, R53) -/

/-- A register is the one at its own offset. -/
theorem Reg.ofOffset_offset (r : Reg) : Reg.ofOffset r.offset = some r := by
  cases r with
  | spec i =>
    have hi := i.isLt
    simp only [Config.numLines] at hi
    have hspec : 0x1000 ≤ (Reg.spec i).offset ∧ (Reg.spec i).offset < 0x1900 := by
      simp only [Reg.offset]
      omega
    rw [Reg.ofOffset, dif_pos hspec]
    simp [Reg.offset]
  | _ => rfl

/-- The offset of a register is aligned and inside the window. -/
theorem Reg.offset_bounds (r : Reg) : r.offset % 4 = 0 ∧ r.offset < windowBytes := by
  cases r with
  | spec i =>
    have hi := i.isLt
    simp only [Config.numLines] at hi
    simp only [Reg.offset, windowBytes]
    omega
  | _ => decide

/-- A 32-bit write at a register's offset is made. -/
theorem hostAccess_write_offset (r : Reg) (v : Word) :
    hostAccess (.write r.offset 4 v) s = .next (hostWrite r.offset v s) := by
  obtain ⟨haligned, hwindow⟩ := r.offset_bounds
  simp only [hostAccess, haligned]
  rw [if_neg (by simp), if_neg (by omega)]

theorem hostWrite_status (v : Word) : hostWrite Reg.status.offset v s = writeStatus v s := by
  simp only [hostWrite, Reg.ofOffset_offset, if_true]

/-- In IDLE a write to a read-write register stores to it. -/
theorem hostWrite_of_isRW (r : Reg) (v : Word) (hidle : s.busy = false) (hr : r.isRW = true) :
    hostWrite r.offset v s = writeReg r v s := by
  have hstatus : r ≠ .status := by rintro rfl; cases hr
  have hcmd : r ≠ .cmd := by rintro rfl; cases hr
  simp only [hostWrite, Reg.ofOffset_offset, hstatus, hcmd, hr, hidle, if_true, if_false, Bool.false_eq_true]

/-! ### The bits of STATUS -/

/-- Each bit of STATUS: the bits appended in `statusWord`, lowest first. -/
theorem getLsbD_statusWord (k : Nat) :
    (statusWord s).getLsbD k =
      (match k with
        | 0 => s.busy
        | 1 => s.status.done
        | 2 => s.status.softFail
        | 3 => s.status.rollback
        | 4 => s.status.illegalCmd
        | 5 => s.status.busyWrite
        | _ => false) := by
  unfold statusWord
  refine BitVec.getLsbD_append.trans ?_
  simp only [BitVec.getLsbD_append]
  match k with
  | 0 | 1 | 2 | 3 | 4 | 5 => simp
  | k + 6 => simp

/-- Settles O10: BUSY is computed from PHASE, and the stored bits stand above it. -/
theorem statusWordLayout : Obligations.StatusWordLayout := by
  unfold Obligations.StatusWordLayout
  exact getLsbD_statusWord

/-- Of the bits 5:1 those written as 1 are cleared. The bits above them read 0 before and after, and BUSY takes no write. -/
theorem statusWord_writeStatus (v : Word) :
    statusWord (writeStatus v s) = statusWord s &&& ~~~(v &&& 0x0000003E) := by
  refine BitVec.eq_of_getLsbD_eq fun k hk => ?_
  rw [BitVec.getLsbD_and, getLsbD_statusWord, getLsbD_statusWord]
  match k with
  | 0 | 1 | 2 | 3 | 4 | 5 => simp [writeStatus, State.busy]
  | k + 6 => rfl

/-- Settles O11: the write reaches STATUS whatever HTW is doing. -/
theorem statusWriteClearsExactlyTheBitsWritten : Obligations.StatusWriteClearsExactlyTheBitsWritten := by
  unfold Obligations.StatusWriteClearsExactlyTheBitsWritten
  intro s v
  refine ⟨writeStatus v s, ?_, rfl, statusWord_writeStatus s v⟩
  exact (hostAccess_write_offset s .status v).trans (congrArg _ (hostWrite_status s v))

end Sys2Proof.Machine
end

section
/-! PROOF. What a write to a read-write register does (20_memory.md R53; 10_state.md R22, R25 to R32). -/

namespace Sys2Proof.Machine

variable (s : State)

/-- What `writeReg` does, as one update: each named field belongs to one register. -/
theorem writeReg_eq (r : Reg) (v : Word) :
    writeReg r v s =
      { s with
        irqEn := if r = .ctrl then v.getLsbD 0 else s.irqEn
        part2Start := if r = .part2Start then v else s.part2Start
        part23Len := if r = .part23Len then v.extractLsb' 0 12 else s.part23Len
        bigValues := if r = .bigValues then v.extractLsb' 0 9 else s.bigValues
        ts0 := if r = .tableSelect then v.extractLsb' 0 5 else s.ts0
        ts1 := if r = .tableSelect then v.extractLsb' 8 5 else s.ts1
        ts2 := if r = .tableSelect then v.extractLsb' 16 5 else s.ts2
        c1 := if r = .count1Sel then v.extractLsb' 0 1 else s.c1
        r0c := if r = .regionCount then v.extractLsb' 0 5 else s.r0c
        r1c := if r = .regionCount then v.extractLsb' 8 5 else s.r1c
        ws := if r = .blockCfg then v.extractLsb' 0 1 else s.ws
        bt := if r = .blockCfg then v.extractLsb' 8 2 else s.bt
        srIndex := if r = .srIndex then v.extractLsb' 0 4 else s.srIndex } := by
  cases r <;> rfl

/-- A write to a register leaves what every other register reads as. -/
theorem readReg_writeReg_other {q r : Reg} (v : Word) (h : q ≠ r) : readReg q (writeReg r v s) = readReg q s := by
  rw [writeReg_eq]
  cases q <;>
    simp [readReg, statusWord, State.busy, tableSelectWord, regionCountWord, blockCfgWord, h.symm]

/-- The bits that hold a named field, by number. -/
theorem getLsbD_fieldMask (r : Reg) :
    ∀ k < 32, r.fieldMask.getLsbD k =
      (match r with
        | .ctrl | .count1Sel => decide (k < 1)
        | .part2Start => true
        | .part23Len => decide (k < 12)
        | .bigValues => decide (k < 9)
        | .tableSelect => decide (k < 5 ∨ 8 ≤ k ∧ k < 13 ∨ 16 ≤ k ∧ k < 21)
        | .regionCount => decide (k < 5 ∨ 8 ≤ k ∧ k < 13)
        | .blockCfg => decide (k < 1 ∨ 8 ≤ k ∧ k < 10)
        | .srIndex => decide (k < 4)
        | _ => false) := by
  cases r with
  | spec i => intro k _; simp [Reg.fieldMask]
  | _ => decide

/-- A read-write register reads as the word written to it, with the reserved bits 0. -/
theorem readReg_writeReg_same (r : Reg) (v : Word) (hr : r.isRW = true) :
    readReg r (writeReg r v s) = v &&& r.fieldMask := by
  refine BitVec.eq_of_getLsbD_eq fun k hk => ?_
  rw [BitVec.getLsbD_and, getLsbD_fieldMask r k hk]
  cases r with
  | ctrl => by_cases h0 : k = 0 <;> simp [readReg, writeReg, hk, h0]
  | part2Start => simp [readReg, writeReg]
  | part23Len | bigValues | count1Sel | srIndex => simp [readReg, writeReg, hk, Bool.and_comm]
  | tableSelect | regionCount | blockCfg =>
    simp only [readReg, writeReg, tableSelectWord, regionCountWord, blockCfgWord]
    refine BitVec.getLsbD_append.trans ?_
    simp only [BitVec.getLsbD_append, BitVec.getLsbD_extractLsb', BitVec.getLsbD_zero]
    grind
  | _ => cases hr

/-- Settles O18: in IDLE the write is `writeReg`, one update of the fields of one register. -/
theorem writeStoresTheNamedFieldsOnly : Obligations.WriteStoresTheNamedFieldsOnly := by
  unfold Obligations.WriteStoresTheNamedFieldsOnly
  intro s r v hidle hr
  refine ⟨writeReg r v s, ?_, readReg_writeReg_same s r v hr, fun q => readReg_writeReg_other s v, ?_⟩
  · rw [hostAccess_write_offset, hostWrite_of_isRW s r v hidle hr]
  · rw [writeReg_eq]
    simp only [and_self]

end Sys2Proof.Machine
end

section
/-! PROOF. Reset (10_state.md R43; 70_reset_and_hazards.md R230, R231): the register values, the event, and the invariant. -/

namespace Sys2Proof.Machine

/-- Every register of the window but SPEC, whose entries are free values, reads 0 after reset. -/
theorem readReg_reset (r : Reg) (h : ∀ i, r ≠ .spec i) : readReg r State.reset = 0 := by
  cases r with
  | spec i => exact absurd rfl (h i)
  | _ => rfl

/-- Settles O48: R43's value of every register but SPEC, and of PHASE, XR, YR and irq. -/
theorem resetValues : Obligations.ResetValues := by
  unfold Obligations.ResetValues
  exact ⟨readReg_reset, rfl, rfl, rfl, rfl⟩

/-- A reset of a machine that has run gives every register but SPEC the value it has in `State.reset`. -/
theorem readReg_resetMachine (s : State) (r : Reg) (h : ∀ i, r ≠ .spec i) :
    readReg r (resetMachine s) = readReg r State.reset := by
  cases r with
  | spec i => exact absurd rfl (h i)
  | status =>
    simp only [readReg, statusWord, State.busy, resetMachine]
    rfl
  | _ => simp only [readReg, tableSelectWord, regionCountWord, blockCfgWord, resetMachine]

/-- In IDLE no command is abandoned, so the cursor stays where its owner put it. -/
theorem resetMachine_cur_of_idle (s : State) (h : s.busy = false) : (resetMachine s).cur = s.cur := by
  simp [resetMachine, h]

/-- Settles O49: the registers take their values in `State.reset`, and what is outside HTW is carried over. -/
theorem resetEventPutsTheResetState : Obligations.ResetEventPutsTheResetState := by
  unfold Obligations.ResetEventPutsTheResetState
  intro s rest hinputs
  refine ⟨resetMachine { s with inputs := rest }, step_cons s _ rest hinputs, fun r hr => ?_,
    rfl, rfl, rfl, rfl, rfl, rfl, rfl, rfl, resetMachine_cur_of_idle _⟩
  rw [readReg_resetMachine _ r hr, readReg_reset r hr]

/-- Settles O50: nothing is buffered, nothing runs, nothing is shown and LINECOUNT is 0. -/
theorem invariantHoldsAtReset : Obligations.InvariantHoldsAtReset where
  memoryCanonical := ⟨.nil, nofun⟩
  runningLegal _ _ h := nomatch h
  runningNotDone _ := rfl
  idleShowsNothing _ := ⟨rfl, rfl⟩
  lineCountBound := Nat.zero_le _
  lineCountEven := rfl

end Sys2Proof.Machine
end

section
/-! PROOF. What each command leaves alone (10_state.md R33 to R36, R41; 40_catalog.md R107; 43_granule_decoder.md R180). -/

namespace Sys2Proof.Machine

variable {s t : State}

theorem tableInRange_of_le {n : BitVec 6} (h : n.toNat ≤ 33) : tableInRange n = true :=
  decide_eq_true (Nat.lt_succ_of_le h)

/-- The next state of a DESC of a table of the catalog (40_catalog.md R107). -/
theorem exec_desc_next {n : BitVec 6} (hn : tableInRange n = true) (h : exec (.desc n) s = .next t) :
    t = complete (setRes (BitVec.ofNat 32 (catalog s.params n.toNat).treeLength.val)
      (BitVec.ofNat 32 (catalog s.params n.toNat).linBits.val) (if isQuad n.toNat then 1 else 0) 0 s) := by
  rw [exec_desc_of_range s n hn] at h
  cases h
  rfl

/-! ### The results of a granule -/

/-- What GRANULE alone writes: SPEC, LINECOUNT, the region starts and ROLLBACK. -/
def SameGranuleResults (s t : State) : Prop :=
  t.spec = s.spec ∧ t.lineCount = s.lineCount ∧ t.region1Start = s.region1Start ∧ t.region2Start = s.region2Start ∧
    t.status.rollback = s.status.rollback

theorem exec_sym_sameGranuleResults {n : BitVec 6} (hn : tableInRange n = true) (h : exec (.sym n) s = .next t) :
    SameGranuleResults s t := by
  obtain ⟨-, rfl⟩ := exec_sym_next s t n hn h
  simp [SameGranuleResults]

theorem exec_walk_sameGranuleResults {n : BitVec 6} (hn : tableInRange n = true) (h : exec (.walk n) s = .next t) :
    SameGranuleResults s t := by
  obtain ⟨-, rfl⟩ := exec_walk_next s t n hn h
  simp [SameGranuleResults]

theorem exec_desc_sameGranuleResults {n : BitVec 6} (hn : tableInRange n = true) (h : exec (.desc n) s = .next t) :
    SameGranuleResults s t := by
  obtain rfl := exec_desc_next hn h
  simp [SameGranuleResults]

/-! ### What DESC and GRANULE keep besides -/

/-- DESC makes no reservoir transaction and walks no tree, whatever its table. -/
theorem exec_desc_keeps_datapath {n : BitVec 6} (h : exec (.desc n) s = .next t) :
    t.cur = s.cur ∧ t.xr = s.xr ∧ t.yr = s.yr ∧ t.status.softFail = s.status.softFail := by
  cases hn : tableInRange n with
  | true =>
    obtain rfl := exec_desc_next hn h
    simp
  | false =>
    rw [exec_of_not_wf s (.desc n) hn] at h
    cases h
    simp

theorem exec_granule_keeps_res (h : exec .granule s = .next t) :
    t.resX = s.resX ∧ t.resY = s.resY ∧ t.resV = s.resV ∧ t.resW = s.resW := by
  obtain ⟨-, rfl⟩ | ⟨-, -, -, rfl⟩ := exec_granule_next s t h
  · simp
  · simp [granuleResult]

/-- Settles O47, command by command. -/
theorem commandsWriteOnlyTheirOwnResults : Obligations.CommandsWriteOnlyTheirOwnResults := by
  unfold Obligations.CommandsWriteOnlyTheirOwnResults
  refine fun s t => ⟨fun n hn h => ?_, fun n _ => exec_desc_keeps_datapath, exec_granule_keeps_res⟩
  have hrange := tableInRange_of_le hn
  have hsame : SameGranuleResults s t := by
    rcases h with hsym | hwalk | hdesc
    · exact exec_sym_sameGranuleResults hrange hsym
    · exact exec_walk_sameGranuleResults hrange hwalk
    · exact exec_desc_sameGranuleResults hrange hdesc
  obtain ⟨hspec, hrest⟩ := hsame
  exact ⟨fun i => by rw [hspec], hrest⟩

/-- No command writes the reservoir's bits or the parameters (10_state.md R41, R42). -/
theorem exec_keeps_resv_params {i : Instr} (h : exec i s = .next t) : t.resv = s.resv ∧ t.params = s.params := by
  cases hi : i.wf with
  | false =>
    rw [exec_of_not_wf s i hi] at h
    cases h
    simp
  | true =>
    cases i with
    | granule =>
      obtain ⟨-, rfl⟩ | ⟨-, -, -, rfl⟩ := exec_granule_next s t h
      · simp
      · simp [granuleResult]
    | sym n =>
      obtain ⟨-, rfl⟩ := exec_sym_next s t n hi h
      simp
    | walk n =>
      obtain ⟨-, rfl⟩ := exec_walk_next s t n hi h
      simp
    | desc n =>
      obtain rfl := exec_desc_next hi h
      simp

end Sys2Proof.Machine
end

section
/-! PROOF. What moves the reservoir and what changes the tables (10_state.md R41, R42; 20_memory.md R60, R61): said once of
every event, and read off for a step. -/

namespace Sys2Proof.Machine

/-! ### What lies outside HTW's registers -/

/-- The reservoir's cursor, its bits and the parameters are the same. -/
structure SameOutside (s t : State) : Prop where
  cur : t.cur = s.cur
  resv : t.resv = s.resv
  params : t.params = s.params

variable (s : State)

theorem SameOutside.refl : SameOutside s s := ⟨rfl, rfl, rfl⟩

theorem raise_sameOutside (c : Condition) : SameOutside s (raise c s) := by
  rw [raise_eq]
  exact ⟨rfl, rfl, rfl⟩

theorem hostCommand_sameOutside (w : Word) : SameOutside s (hostCommand w s) := by
  unfold hostCommand
  split <;> exact ⟨rfl, rfl, rfl⟩

theorem writeReg_sameOutside (r : Reg) (v : Word) : SameOutside s (writeReg r v s) := by
  rw [writeReg_eq]
  exact ⟨rfl, rfl, rfl⟩

theorem hostWrite_sameOutside (addr : Nat) (v : Word) : SameOutside s (hostWrite addr v s) := by
  unfold hostWrite
  split
  · exact .refl s
  · split_ifs
    · exact ⟨rfl, rfl, rfl⟩
    · exact raise_sameOutside s .busyWrite
    · exact hostCommand_sameOutside s v
    · exact raise_sameOutside s .busyWrite
    · exact writeReg_sameOutside s _ v
    · exact .refl s

theorem hostRead_sameOutside (addr : Nat) : SameOutside s (hostRead addr s) := by
  unfold hostRead
  split
  · exact ⟨rfl, rfl, rfl⟩
  · split <;> exact ⟨rfl, rfl, rfl⟩

theorem waitDone_sameOutside : SameOutside s (waitDone s) := by
  obtain ⟨hcur, hresv, hparams⟩ := hostRead_sameOutside s Reg.status.offset
  unfold waitDone
  split <;> exact ⟨hcur, hresv, hparams⟩

theorem raiseShows_sameOutside : SameOutside s (raiseShows s) := by
  unfold raiseShows
  split
  · exact .refl s
  · dsimp only
    split_ifs <;> exact ⟨rfl, rfl, rfl⟩

variable {s} {t : State}

/-- A host access that answers is a read or a write of the window. -/
theorem hostAccess_next {a : Access} (h : hostAccess a s = .next t) :
    (∃ addr, t = hostRead addr s) ∨ ∃ addr v, t = hostWrite addr v s := by
  cases a with
  | read addr n =>
    simp only [hostAccess] at h
    split_ifs at h
    cases h
    exact .inl ⟨addr, rfl⟩
  | write addr n v =>
    simp only [hostAccess] at h
    split_ifs at h
    cases h
    exact .inr ⟨addr, v, rfl⟩

theorem hostAccess_sameOutside {a : Access} (h : hostAccess a s = .next t) : SameOutside s t := by
  obtain ⟨addr, rfl⟩ | ⟨addr, v, rfl⟩ := hostAccess_next h
  · exact hostRead_sameOutside s addr
  · exact hostWrite_sameOutside s addr v

/-! ### One event -/

/-- What an event that answers does to the reservoir and the tables: nothing, or it is its owner's positioning or its owner's
change of a bit, a reset, or the running command's turn. -/
theorem deliver_next {e : Event} (h : deliver e s = .next t) :
    SameOutside s t ∨
      (∃ p, e = .moveCursor p ∧ s.busy = false ∧ t = { s with cur := p }) ∨
      (∃ p b, e = .setBit p b ∧ t = { s with resv := s.resv.set p.toNat b }) ∨
      (e = .reset ∧ t = resetMachine s) ∨
      (e = .finish ∧ ∃ op n, s.phase = .run op n ∧ exec (op.withTable n) s = .next t) := by
  cases e with
  | access a => exact .inl (hostAccess_sameOutside h)
  | waitDone =>
    cases h
    exact .inl (waitDone_sameOutside s)
  | moveCursor p =>
    simp only [deliver, moveCursor] at h
    split_ifs at h with hbusy
    cases h
    exact .inr (.inl ⟨p, rfl, by simpa using hbusy, rfl⟩)
  | setBit p b =>
    simp only [deliver, setBit] at h
    split_ifs at h
    cases h
    exact .inr (.inr (.inl ⟨p, b, rfl, rfl⟩))
  | reset =>
    cases h
    exact .inr (.inr (.inr (.inl ⟨rfl, rfl⟩)))
  | raiseShows =>
    cases h
    exact .inl (raiseShows_sameOutside s)
  | finish =>
    cases hphase : s.phase with
    | idle =>
      rw [deliver, datapathTurn_idle s hphase] at h
      cases h
      exact .inl (.refl s)
    | run op n =>
      rw [deliver, datapathTurn_run s op n hphase] at h
      exact .inr (.inr (.inr (.inr ⟨rfl, op, n, rfl, h⟩)))

theorem deliver_params {e : Event} (h : deliver e s = .next t) : t.params = s.params := by
  obtain hsame | ⟨p, -, -, rfl⟩ | ⟨p, b, -, rfl⟩ | ⟨-, rfl⟩ | ⟨-, op, n, -, hexec⟩ := deliver_next h
  · exact hsame.params
  · rfl
  · rfl
  · rfl
  · exact (exec_keeps_resv_params hexec).2

theorem deliver_resv {e : Event} (h : deliver e s = .next t) (hne : t.resv ≠ s.resv) : ∃ p b, e = .setBit p b := by
  obtain hsame | ⟨p, -, -, rfl⟩ | ⟨p, b, he, -⟩ | ⟨-, rfl⟩ | ⟨-, op, n, -, hexec⟩ := deliver_next h
  · exact absurd hsame.resv hne
  · exact absurd rfl hne
  · exact ⟨p, b, he⟩
  · exact absurd rfl hne
  · exact absurd (exec_keeps_resv_params hexec).1 hne

theorem deliver_cur {e : Event} (h : deliver e s = .next t) (hne : t.cur ≠ s.cur) :
    (e = .finish ∧ ∃ op n, s.phase = .run op n ∧ op ≠ .desc) ∨ (∃ p, e = .moveCursor p) ∨
      (e = .reset ∧ s.busy = true) := by
  obtain hsame | ⟨p, he, -, -⟩ | ⟨p, b, -, rfl⟩ | ⟨he, rfl⟩ | ⟨he, op, n, hphase, hexec⟩ := deliver_next h
  · exact absurd hsame.cur hne
  · exact .inr (.inl ⟨p, he⟩)
  · exact absurd rfl hne
  · refine .inr (.inr ⟨he, ?_⟩)
    by_contra hidle
    exact hne (resetMachine_cur_of_idle s (Bool.eq_false_of_not_eq_true hidle))
  · refine .inl ⟨he, op, n, hphase, ?_⟩
    rintro rfl
    exact hne (exec_desc_keeps_datapath hexec).1

/-! ### One step -/

/-- The event a step delivers: the head of the schedule, and the datapath's turn where nothing is scheduled (logs 9, 10). -/
def nextEvent (s : State) : Event := s.inputs.headD .finish

theorem step_eq_deliver (s : State) : step s = deliver (nextEvent s) { s with inputs := s.inputs.tail } := by
  cases hinputs : s.inputs with
  | nil =>
    have hs : { s with inputs := [] } = s := by rw [← hinputs]
    rw [step_nil s hinputs, nextEvent, hinputs, List.tail_nil, hs]
    rfl
  | cons e rest =>
    rw [step_cons s e rest hinputs, nextEvent, hinputs]
    rfl

theorem inputs_of_nextEvent {e : Event} (h : nextEvent s = e) (he : e ≠ .finish) : ∃ rest, s.inputs = e :: rest := by
  unfold nextEvent at h
  cases hinputs : s.inputs with
  | nil => exact absurd (by simpa [hinputs] using h.symm) he
  | cons d rest => exact ⟨rest, by simpa [hinputs] using h⟩

theorem inputs_of_nextEvent_finish (h : nextEvent s = .finish) :
    s.inputs = [] ∨ ∃ rest, s.inputs = .finish :: rest := by
  unfold nextEvent at h
  cases hinputs : s.inputs with
  | nil => exact .inl rfl
  | cons d rest => exact .inr ⟨rest, by simpa [hinputs] using h⟩

/-- Settles O52: no event writes the parameters. -/
theorem noStepChangesTheTables : Obligations.NoStepChangesTheTables := by
  unfold Obligations.NoStepChangesTheTables
  intro s t h
  rw [step_eq_deliver] at h
  have hparams := deliver_params h
  exact hparams

/-- Settles O54: of all events only the owner's change of a bit writes the reservoir's bits. -/
theorem onlyTheOwnerChangesReservoirBits : Obligations.OnlyTheOwnerChangesReservoirBits := by
  unfold Obligations.OnlyTheOwnerChangesReservoirBits
  intro s t h hne
  rw [step_eq_deliver] at h
  obtain ⟨p, b, he⟩ := deliver_resv h hne
  exact ⟨p, b, inputs_of_nextEvent he nofun⟩

/-- Settles O55: DESC reads no bit, and a reset in IDLE abandons nothing, so both leave the cursor. -/
theorem whatMovesTheCursor : Obligations.WhatMovesTheCursor := by
  unfold Obligations.WhatMovesTheCursor
  intro s t h hne
  rw [step_eq_deliver] at h
  obtain ⟨he, op, n, hphase, hop⟩ | ⟨p, he⟩ | ⟨he, hbusy⟩ := deliver_cur h hne
  · exact .inl ⟨op, n, hphase, hop, inputs_of_nextEvent_finish he⟩
  · exact .inr (.inl ⟨p, inputs_of_nextEvent he nofun⟩)
  · exact .inr (.inr ⟨hbusy, inputs_of_nextEvent he nofun⟩)

end Sys2Proof.Machine
end

section
/-! PROOF. The host window (20_memory.md R50, R51, R53, R56): its map, and what each access does. -/

namespace Sys2Proof.Machine

/-! ### The map of the window -/

/-- The register found at an aligned offset has that offset. -/
theorem Reg.offset_of_ofOffset {a : Nat} {r : Reg} (haligned : a % 4 = 0) (h : Reg.ofOffset a = some r) :
    r.offset = a := by
  unfold Reg.ofOffset at h
  split at h
  next hspec =>
    cases h
    simp only [Reg.offset]
    omega
  next =>
    unfold Reg.ofLowOffset at h
    split at h <;> cases h <;> rfl

/-- No register lies in the gaps of R50's table, below SPEC or above it. -/
theorem Reg.offset_not_reserved (r : Reg) :
    ¬ (r.offset = 0x00C ∨ r.offset = 0x03C ∨ (0x050 ≤ r.offset ∧ r.offset ≤ 0x0FFC) ∨
      (0x1900 ≤ r.offset ∧ r.offset ≤ 0x1FFC)) := by
  cases r with
  | spec i =>
    have hi := i.isLt
    simp only [Config.numLines] at hi
    simp only [Reg.offset]
    omega
  | _ => decide

/-- Settles O15: a reserved offset would have to be some register's own. -/
theorem windowMapIsOneToOne : Obligations.WindowMapIsOneToOne := by
  unfold Obligations.WindowMapIsOneToOne
  refine ⟨fun r => ⟨r.ofOffset_offset, r.offset_bounds⟩, fun a r => Reg.offset_of_ofOffset, rfl,
    fun i => Reg.ofOffset_offset (.spec i), fun a haligned hreserved => ?_⟩
  refine Option.eq_none_iff_forall_ne_some.mpr fun r hr => ?_
  obtain rfl := Reg.offset_of_ofOffset haligned hr
  exact r.offset_not_reserved hreserved

/-! ### The accesses -/

/-- Settles O16: the shape of an access is tested before anything else. -/
theorem otherWidthsAndAlignmentsAreRefused : Obligations.OtherWidthsAndAlignmentsAreRefused := by
  unfold Obligations.OtherWidthsAndAlignmentsAreRefused
  exact fun s addr n v hshape => ⟨if_pos hshape, if_pos hshape⟩

variable (s : State)

/-- A 32-bit read of an aligned offset of the window is made. -/
theorem hostAccess_read_of_aligned {a : Nat} (haligned : a % 4 = 0) (hwindow : a < windowBytes) :
    hostAccess (.read a 4) s = .next (hostRead a s) := by
  simp only [hostAccess]
  rw [if_neg (by omega), if_neg (by omega)]

/-- A 32-bit write to an aligned offset of the window is made. -/
theorem hostAccess_write_of_aligned {a : Nat} (v : Word) (haligned : a % 4 = 0) (hwindow : a < windowBytes) :
    hostAccess (.write a 4 v) s = .next (hostWrite a v s) := by
  simp only [hostAccess]
  rw [if_neg (by omega), if_neg (by omega)]

/-- In IDLE no read is free: each answers the register's value, or 0 where there is none. -/
theorem hostRead_of_idle (a : Nat) (hidle : s.busy = false) :
    hostRead a s = answer ((Reg.ofOffset a).elim 0 (readReg · s)) s := by
  unfold hostRead
  cases Reg.ofOffset a with
  | none => rfl
  | some r => simp [hidle]

/-- An entry of SPEC reads as the same signed number. -/
theorem toInt_readReg_spec (i : Fin Config.numLines) : (readReg (.spec i) s).toInt = s.spec[i].toInt :=
  BitVec.toInt_signExtend_of_le (by decide)

/-- Settles O17: a read in IDLE is an `answer`, which writes the list of answers only. -/
theorem idleReadReturnsTheRegisterOnly : Obligations.IdleReadReturnsTheRegisterOnly := by
  unfold Obligations.IdleReadReturnsTheRegisterOnly
  refine ⟨fun s a hidle haligned hwindow => ?_, fun s => ⟨rfl, rfl, rfl, rfl, rfl, rfl, rfl, rfl,
    fun i => ⟨rfl, toInt_readReg_spec s i⟩⟩⟩
  rw [hostAccess_read_of_aligned s haligned hwindow, hostRead_of_idle s a hidle]
  cases Reg.ofOffset a <;> rfl

/-- An offset whose register, if there is one, takes no write ignores every write. -/
theorem hostWrite_of_not_writable {a : Nat} (v : Word)
    (h : ∀ r, Reg.ofOffset a = some r → r ≠ .status ∧ r ≠ .cmd ∧ r.isRW = false) : hostWrite a v s = s := by
  unfold hostWrite
  cases hreg : Reg.ofOffset a with
  | none => rfl
  | some r =>
    obtain ⟨hstatus, hcmd, hrw⟩ := h r hreg
    simp [hstatus, hcmd, hrw]

/-- Settles O19: neither BUSY nor the word written matters. -/
theorem writesToReadOnlyOffsetsAreIgnored : Obligations.WritesToReadOnlyOffsetsAreIgnored := by
  unfold Obligations.WritesToReadOnlyOffsetsAreIgnored
  intro s a v haligned hwindow hreadOnly
  rw [hostAccess_write_of_aligned s v haligned hwindow, hostWrite_of_not_writable s v hreadOnly]

end Sys2Proof.Machine
end

section
/-! PROOF. The reservoir port as numbers (20_memory.md R58, R59) and the reservoir's owner (R61). -/

namespace Sys2Proof.Machine

/-- One more bit at the end doubles the weight of the bits before it. -/
theorem Memory.value_succ (m : Memory) (p n : Nat) : m.value p (n + 1) = 2 * m.value p n + (m.read (p + n)).toNat := by
  have hweight : ∀ k ∈ Finset.range n,
      (m.read (p + k)).toNat * 2 ^ (n - k) = 2 * ((m.read (p + k)).toNat * 2 ^ (n - 1 - k)) := fun k hk => by
    have hlt := Finset.mem_range.mp hk
    rw [show n - k = n - 1 - k + 1 by omega, pow_succ]
    ring
  simp only [Memory.value, Finset.sum_range_succ, Nat.add_sub_cancel, Nat.sub_self, pow_zero, mul_one, Finset.mul_sum]
  rw [Finset.sum_congr rfl hweight]

variable (e : Env)

/-- The number that ReadBits answers, the first bit read the most significant. -/
theorem readBits_fst (n : Nat) (d : Datapath) : (readBits e n d).1 = e.resv.value d.cur n := by
  induction n with
  | zero => rfl
  | succ n ih => rw [readBits_succ, ih, Memory.value_succ]

/-- ReadBits read from its first bit on: that bit, and the n bits after it. -/
theorem readBits_succ_first (n : Nat) (d : Datapath) :
    (readBits e (n + 1) d).1 = (readBit e d).1.toNat * 2 ^ n + (readBits e n (readBit e d).2).1 := by
  induction n with
  | zero => simp [readBits]
  | succ n ih =>
    have hlast : d.cur + (n + 1) = (readBit e d).2.cur + n := by simp only [readBit_snd]; omega
    rw [readBits_succ, ih, readBits_succ, hlast, pow_succ]
    ring

/-- Settles O26: ReadBits is unrolled at its last bit for the sum and at its first for the successive reads. -/
theorem readBitsIsTheMsbFirstSum : Obligations.ReadBitsIsTheMsbFirstSum := by
  unfold Obligations.ReadBitsIsTheMsbFirstSum
  refine ⟨fun e n d _ => Prod.ext (readBits_fst e n d) (readBits_snd e n d),
    fun e n d => Prod.ext (readBits_succ_first e n d) ?_, fun p t => Fin.is_le _⟩
  simp only [readBits_snd, readBit_snd]
  rw [Nat.add_right_comm, Nat.add_assoc]

/-- Settles O27: a position reads as its last change left it. -/
theorem bufferingABitChangesThatPositionOnly : Obligations.BufferingABitChangesThatPositionOnly := by
  unfold Obligations.BufferingABitChangesThatPositionOnly
  exact fun m p q b hwf => ⟨Memory.read_write_same m p b hwf, fun hq =>
    ⟨Memory.read_set_other m p q (some b) hwf hq, Memory.read_set_other m p q none hwf hq⟩⟩

end Sys2Proof.Machine
end

section
/-! PROOF. What changes SPEC (20_memory.md R56; 10_state.md R36, R43): a GRANULE's run and a reset, said of each operation, of
every event, and of a step. -/

namespace Sys2Proof.Machine

variable (s : State)

/-! ### The host and the early raises -/

@[simp] theorem raise_spec (c : Condition) : (raise c s).spec = s.spec := by rw [raise_eq]

@[simp] theorem writeStatus_spec (v : Word) : (writeStatus v s).spec = s.spec := rfl

@[simp] theorem hostCommand_spec (w : Word) : (hostCommand w s).spec = s.spec := by
  unfold hostCommand
  split <;> simp

@[simp] theorem writeReg_spec (r : Reg) (v : Word) : (writeReg r v s).spec = s.spec := by rw [writeReg_eq]

theorem hostWrite_spec (addr : Nat) (v : Word) : (hostWrite addr v s).spec = s.spec := by
  unfold hostWrite
  split
  · rfl
  · split_ifs <;> simp

theorem hostRead_spec (addr : Nat) : (hostRead addr s).spec = s.spec := by
  unfold hostRead
  split
  · simp
  · split <;> simp

theorem waitDone_spec : (waitDone s).spec = s.spec := by
  have hread := hostRead_spec s Reg.status.offset
  unfold waitDone
  split <;> exact hread

theorem raiseShows_spec : (raiseShows s).spec = s.spec := by
  unfold raiseShows
  split
  · rfl
  · dsimp only
    split_ifs <;> simp

variable {s} {t : State}

theorem hostAccess_spec {a : Access} (h : hostAccess a s = .next t) : t.spec = s.spec := by
  obtain ⟨addr, rfl⟩ | ⟨addr, v, rfl⟩ := hostAccess_next h
  · exact hostRead_spec s addr
  · exact hostWrite_spec s addr v

/-! ### The commands -/

/-- No command but GRANULE writes SPEC, whether its table is in the catalog or not. -/
theorem exec_spec_of_ne_granule {i : Instr} (hi : i ≠ .granule) (h : exec i s = .next t) : t.spec = s.spec := by
  cases hwf : i.wf with
  | false =>
    rw [exec_of_not_wf s i hwf] at h
    cases h
    rfl
  | true =>
    cases i with
    | granule => exact absurd rfl hi
    | sym n => exact (exec_sym_sameGranuleResults hwf h).1
    | walk n => exact (exec_walk_sameGranuleResults hwf h).1
    | desc n => exact (exec_desc_sameGranuleResults hwf h).1

/-- The datapath's turn changes SPEC only where a GRANULE runs. -/
theorem datapathTurn_spec (h : datapathTurn s = .next t) (hne : t.spec ≠ s.spec) : ∃ n, s.phase = .run .granule n := by
  cases hphase : s.phase with
  | idle =>
    rw [datapathTurn_idle s hphase] at h
    cases h
    exact absurd rfl hne
  | run op n =>
    rw [datapathTurn_run s op n hphase] at h
    cases op with
    | granule => exact ⟨n, rfl⟩
    | sym | walk | desc => exact absurd (exec_spec_of_ne_granule (by nofun) h) hne

/-! ### One event, and one step -/

theorem deliver_spec {e : Event} (h : deliver e s = .next t) (hne : t.spec ≠ s.spec) :
    (e = .finish ∧ ∃ n, s.phase = .run .granule n) ∨ e = .reset := by
  cases e with
  | access a => exact absurd (hostAccess_spec h) hne
  | waitDone =>
    cases h
    exact absurd (waitDone_spec s) hne
  | moveCursor p =>
    simp only [deliver, moveCursor] at h
    split_ifs at h
    cases h
    exact absurd rfl hne
  | setBit p b =>
    simp only [deliver, setBit] at h
    split_ifs at h
    cases h
    exact absurd rfl hne
  | reset => exact .inr rfl
  | raiseShows =>
    cases h
    exact absurd (raiseShows_spec s) hne
  | finish => exact .inl ⟨rfl, datapathTurn_spec h hne⟩

/-- Settles O53: of all events only GRANULE's turn and a reset write SPEC. -/
theorem onlyGranuleAndResetChangeSpec : Obligations.OnlyGranuleAndResetChangeSpec := by
  unfold Obligations.OnlyGranuleAndResetChangeSpec
  intro s t h hne
  rw [step_eq_deliver] at h
  obtain ⟨he, n, hphase⟩ | he := deliver_spec h hne
  · exact .inl ⟨n, hphase, inputs_of_nextEvent_finish he⟩
  · exact .inr (inputs_of_nextEvent he nofun)

end Sys2Proof.Machine
end

section
/-! PROOF. The command word (30_encoding.md R80 to R85): when a word decodes to a command, by its two fields and by its bits. -/

namespace Sys2Proof

/-! ### An operation and its code (R82) -/

theorem Instr.withTable_tableCode (i : Instr) : i.op.withTable i.tableCode = i := by
  cases i <;> rfl

@[simp] theorem Op.withTable_op (o : Op) (t : BitVec 6) : (o.withTable t).op = o := by
  cases o <;> rfl

theorem opOfCode_eq_some_iff (c : BitVec 4) (o : Op) : opOfCode c = some o ↔ c = o.code := by
  revert c
  cases o <;> decide

/-! ### Decoding by the two fields -/

theorem decodeFields_code (o : Op) (t : BitVec 6) :
    decodeFields o.code t =
      if (o.withTable t).wf then .command (o.withTable t) else .illegal (.tableAbove33 o.code t) := by
  simp only [decodeFields, (opOfCode_eq_some_iff o.code o).mpr rfl]

/-- The words of a command: its operation's code in OP, and in TABLE whatever the command takes from there. -/
theorem decode_eq_command_iff (w : Word) (i : Instr) :
    decode w = .command i ↔ i.wf = true ∧ opField w = i.op.code ∧ i.op.withTable (tableField w) = i := by
  constructor
  · intro h
    cases hop : opOfCode (opField w) with
    | none =>
      simp only [decode, decodeFields, hop] at h
      cases h
    | some o =>
      have hcode := (opOfCode_eq_some_iff _ _).mp hop
      rw [decode, hcode, decodeFields_code] at h
      split at h
      next hwf =>
        cases h
        exact ⟨hwf, by rwa [Op.withTable_op], by rw [Op.withTable_op]⟩
      next => cases h
  · rintro ⟨hwf, hop, htable⟩
    rw [decode, hop, decodeFields_code, htable, if_pos hwf]

/-- Settles O1: the two fields of an assembled word are the command's own. -/
theorem decodeOfEncodeIsTheCommand : Obligations.DecodeOfEncodeIsTheCommand := by
  unfold Obligations.DecodeOfEncodeIsTheCommand
  intro i hwf
  refine (decode_eq_command_iff _ i).mpr ⟨hwf, opField_encode i, ?_⟩
  rw [tableField_encode, i.withTable_tableCode]

/-! ### Words by their fields -/

/-- The reserved bits of a word: 7:4 and 31:14 (R80). -/
theorem getLsbD_reservedMask : ∀ k < 32, (0xFFFFC0F0#32).getLsbD k = decide ((4 ≤ k ∧ k < 8) ∨ 14 ≤ k) := by
  decide

/-- OP, TABLE and the reserved bits make up a word. -/
theorem word_eq_iff (w v : Word) :
    w = v ↔ opField w = opField v ∧ tableField w = tableField v ∧ w &&& 0xFFFFC0F0#32 = v &&& 0xFFFFC0F0#32 := by
  refine ⟨fun h => h ▸ ⟨rfl, rfl, rfl⟩, fun ⟨hop, htable, hreserved⟩ => BitVec.eq_of_getLsbD_eq fun k hk => ?_⟩
  by_cases hreservedBit : (4 ≤ k ∧ k < 8) ∨ 14 ≤ k
  · simpa [getLsbD_reservedMask k hk, hreservedBit] using congrArg (·.getLsbD k) hreserved
  · by_cases hopBit : k < 4
    · simpa [opField, BitVec.getLsbD_extractLsb', hopBit] using congrArg (·.getLsbD k) hop
    · have htableBit : 8 + (k - 8) = k ∧ k - 8 < 6 := by omega
      simpa [tableField, BitVec.getLsbD_extractLsb', htableBit] using congrArg (·.getLsbD (k - 8)) htable

/-! ### The bits that decoding depends on -/

theorem opField_and_careMask (w : Word) (i : Instr) : opField (w &&& i.careMask) = opField w := by
  have hmask : opField i.careMask = BitVec.allOnes 4 := by cases i <;> simp [opField, Instr.careMask]
  rw [opField, BitVec.extractLsb'_and, ← opField, ← opField, hmask, BitVec.and_allOnes]

/-- The mask keeps of TABLE what the command takes from it: nothing for GRANULE, else all of it (R83). -/
theorem tableField_and_careMask (w : Word) (i : Instr) :
    tableField (w &&& i.careMask) = (i.op.withTable (tableField w)).tableCode := by
  rw [tableField, BitVec.extractLsb'_and, ← tableField, ← tableField]
  cases i with
  | granule => exact BitVec.and_zero
  | sym | walk | desc =>
    have hmask : tableField 0x00003F0F = BitVec.allOnes 6 := rfl
    simp only [Instr.careMask, hmask, BitVec.and_allOnes]
    rfl

theorem careMask_reserved (w : Word) (i : Instr) : w &&& i.careMask &&& 0xFFFFC0F0#32 = 0#32 := by
  have hmask : i.careMask &&& 0xFFFFC0F0#32 = 0#32 := by cases i <;> simp [Instr.careMask]
  rw [BitVec.and_assoc, hmask, BitVec.and_zero]

/-- Two commands of one operation are told apart by their TABLE. -/
theorem withTable_eq_iff (i : Instr) (t : BitVec 6) :
    i.op.withTable t = i ↔ (i.op.withTable t).tableCode = i.tableCode := by
  cases i <;> simp [Instr.op, Op.withTable, Instr.tableCode]

/-- A word's bits that a command cares for are those it assembles to exactly when its fields are the command's. -/
theorem and_careMask_eq_encode_iff (w : Word) (i : Instr) :
    w &&& i.careMask = encode i ↔ opField w = i.op.code ∧ i.op.withTable (tableField w) = i := by
  rw [word_eq_iff, opField_and_careMask, tableField_and_careMask, careMask_reserved, opField_encode, tableField_encode,
    encode_reserved, ← withTable_eq_iff]
  simp

/-- Settles O2: both sides say the same of OP and TABLE. -/
theorem wordIsCommandExactlyByItsCareBits : Obligations.WordIsCommandExactlyByItsCareBits := by
  unfold Obligations.WordIsCommandExactlyByItsCareBits
  intro w i
  rw [decode_eq_command_iff, and_careMask_eq_encode_iff]

/-- Settles O3: the bits named are those of OP and TABLE, and `decode` reads no others. -/
theorem reservedBitsOfTheWordAreIgnored : Obligations.ReservedBitsOfTheWordAreIgnored := by
  unfold Obligations.ReservedBitsOfTheWordAreIgnored
  intro w v hbits
  have hop : opField w = opField v := BitVec.eq_of_getLsbD_eq fun k hk => by
    simpa [opField, BitVec.getLsbD_extractLsb', hk] using hbits k (.inl hk)
  have htable : tableField w = tableField v := BitVec.eq_of_getLsbD_eq fun k hk => by
    simpa [tableField, BitVec.getLsbD_extractLsb', hk] using hbits (8 + k) (.inr (by omega))
  rw [decode, decode, hop, htable]

/-- Settles O4: each word is taken apart by computation. -/
theorem wordsWrittenFromTheEncodingDecode : Obligations.WordsWrittenFromTheEncodingDecode :=
  ⟨rfl, rfl, rfl, rfl, rfl, rfl, rfl⟩

end Sys2Proof
end

section
/-! PROOF. Every step keeps the invariant (`State.Inv`): which of its parts an operation must leave alone, what each operation,
each command and each event does to them, and one step. -/

namespace Sys2Proof.Machine

variable {s t : State}

/-- The invariant carries over to a state with the same PHASE and LINECOUNT, a canonical reservoir, no raise shown but what was,
and while a command runs no DONE but what was. -/
theorem State.Inv.of_frame (hs : s.Inv) (hphase : t.phase = s.phase) (hline : t.lineCount = s.lineCount)
    (hmem : t.resv.wf) (hdone : s.busy = true → t.status.done = true → s.status.done = true)
    (hshown : s.busy = false → t.shownSoft = s.shownSoft ∧ t.shownRollback = s.shownRollback) : t.Inv := by
  have hbusy : t.busy = s.busy := by rw [State.busy, hphase]; rfl
  refine ⟨hmem, hphase ▸ hs.runningLegal, fun hrun => ?_, fun hidle => ?_, hline ▸ hs.lineCountBound,
    hline ▸ hs.lineCountEven⟩
  · rw [hbusy] at hrun
    have hnotDone := hs.runningNotDone hrun
    exact Bool.eq_false_of_not_eq_true fun hset => absurd (hnotDone.symm.trans (hdone hrun hset)) nofun
  · rw [hbusy] at hidle
    rw [(hshown hidle).1, (hshown hidle).2]
    exact hs.idleShowsNothing hidle

/-- The fields that the invariant speaks of. -/
def State.invFields (s : State) : Phase × BitVec 10 × Memory × Bool × Nat × Bool :=
  (s.phase, s.lineCount, s.resv, s.status.done, s.shownSoft, s.shownRollback)

theorem State.Inv.of_invFields (hs : s.Inv) (h : t.invFields = s.invFields) : t.Inv := by
  simp only [State.invFields, Prod.mk.injEq] at h
  obtain ⟨hphase, hline, hresv, hdone, hsoft, hrollback⟩ := h
  exact hs.of_frame hphase hline (hresv ▸ hs.memoryCanonical) (fun _ => hdone ▸ id) fun _ => ⟨hsoft, hrollback⟩

/-! ### The host -/

/-- Acceptance of a legal command clears DONE and shows nothing yet (30_encoding.md R81). -/
theorem accept_inv (hs : s.Inv) {op : Op} {n : BitVec 6} (hwf : (op.withTable n).wf = true) : (accept op n s).Inv where
  memoryCanonical := hs.memoryCanonical
  runningLegal _ _ h := by cases h; exact hwf
  runningNotDone _ := rfl
  idleShowsNothing hidle := nomatch hidle
  lineCountBound := hs.lineCountBound
  lineCountEven := hs.lineCountEven

theorem hostCommand_inv (hs : s.Inv) (hidle : s.busy = false) (w : Word) : (hostCommand w s).Inv := by
  unfold hostCommand
  split
  next i hdecode =>
    obtain ⟨hwf, -, htable⟩ := (decode_eq_command_iff w i).mp hdecode
    exact accept_inv hs (by rwa [htable])
  next => exact hs.of_frame rfl rfl hs.memoryCanonical (by simp [hidle]) fun _ => ⟨rfl, rfl⟩

theorem raise_inv (hs : s.Inv) (c : Condition) : (raise c s).Inv := by
  cases c <;> exact hs.of_invFields rfl

theorem writeStatus_inv (hs : s.Inv) (v : Word) : (writeStatus v s).Inv := by
  refine hs.of_frame rfl rfl hs.memoryCanonical (fun _ hdone => ?_) fun _ => ⟨rfl, rfl⟩
  exact (Bool.and_eq_true_iff.mp hdone).1

theorem writeReg_inv (hs : s.Inv) (r : Reg) (v : Word) : (writeReg r v s).Inv := by
  rw [writeReg_eq]
  exact hs.of_invFields rfl

theorem hostWrite_inv (hs : s.Inv) (addr : Nat) (v : Word) : (hostWrite addr v s).Inv := by
  unfold hostWrite
  split
  · exact hs
  · split_ifs with hstatus hcmd hbusy
    · exact writeStatus_inv hs v
    · exact raise_inv hs .busyWrite
    · exact hostCommand_inv hs (Bool.eq_false_of_not_eq_true hbusy) v
    · exact raise_inv hs .busyWrite
    · exact writeReg_inv hs _ v
    · exact hs

theorem hostRead_inv (hs : s.Inv) (addr : Nat) : (hostRead addr s).Inv := by
  unfold hostRead
  split
  · exact hs.of_invFields rfl
  · split <;> exact hs.of_invFields rfl

theorem hostAccess_inv (hs : s.Inv) {a : Access} (h : hostAccess a s = .next t) : t.Inv := by
  obtain ⟨addr, rfl⟩ | ⟨addr, v, rfl⟩ := hostAccess_next h
  · exact hostRead_inv hs addr
  · exact hostWrite_inv hs addr v

/-- The schedule is no part of the invariant. -/
theorem State.Inv.withInputs (hs : s.Inv) (es : List Event) : State.Inv { s with inputs := es } :=
  hs.of_invFields rfl

theorem waitDone_inv (hs : s.Inv) : (waitDone s).Inv := by
  have hread := hostRead_inv hs Reg.status.offset
  unfold waitDone
  split
  · exact hread
  · exact hread.withInputs _

/-! ### The reservoir's owner, the early raises and reset -/

theorem moveCursor_inv (hs : s.Inv) {p : BitVec 32} (h : moveCursor p s = .next t) : t.Inv := by
  unfold moveCursor at h
  split at h <;> cases h
  exact hs.of_invFields rfl

theorem setBit_inv (hs : s.Inv) {p : BitVec 32} {b : Option Bit} (h : setBit p b s = .next t) : t.Inv := by
  unfold setBit at h
  split at h <;> cases h
  have hp : p.toNat ≤ Config.maxPosition := Nat.le_pred_of_lt p.isLt
  exact hs.of_frame rfl rfl (Memory.wf_set _ _ _ hp hs.memoryCanonical) (fun _ => id) fun _ => ⟨rfl, rfl⟩

/-- A raise shows only while a command runs, so in IDLE none does. -/
theorem raiseShows_inv (hs : s.Inv) : (raiseShows s).Inv := by
  unfold raiseShows
  split
  next => exact hs
  next op n hphase =>
    have hrun : s.busy = true := by simp [State.busy, hphase]
    dsimp only
    split_ifs <;> exact hs.of_frame rfl rfl hs.memoryCanonical (fun _ => id) fun hidle =>
      absurd (hrun.symm.trans hidle) nofun

/-- Of what the invariant speaks of, a reset keeps the reservoir's bits, and all else is as in `State.reset`. -/
theorem resetMachine_inv (hs : s.Inv) : (resetMachine s).Inv :=
  invariantHoldsAtReset.of_frame rfl rfl hs.memoryCanonical (fun _ => id) fun _ => ⟨rfl, rfl⟩

/-! ### The commands -/

/-- Completion leaves IDLE with nothing shown, so it needs only the reservoir and LINECOUNT to be as the invariant has them. -/
theorem complete_inv (hmem : s.resv.wf) (hle : s.lineCount.toNat ≤ 576) (heven : s.lineCount.toNat % 2 = 0) :
    (complete s).Inv where
  memoryCanonical := hmem
  runningLegal _ _ h := nomatch h
  runningNotDone hrun := nomatch hrun
  idleShowsNothing _ := ⟨rfl, rfl⟩
  lineCountBound := hle
  lineCountEven := heven

/-- A legal command's next state is a completion (10_state.md R38). -/
theorem exec_next_complete {i : Instr} (hi : i.wf = true) (h : exec i s = .next t) : ∃ r, t = complete r := by
  cases i with
  | granule => obtain ⟨-, ht⟩ | ⟨-, -, -, ht⟩ := exec_granule_next s t h <;> exact ⟨_, ht⟩
  | sym n => exact ⟨_, (exec_sym_next s t n hi h).2⟩
  | walk n => exact ⟨_, (exec_walk_next s t n hi h).2⟩
  | desc n => exact ⟨_, exec_desc_next hi h⟩

/-- POS after G_FIX is even and at most 576, corrected or not (43_granule_decoder.md R174, R179). -/
theorem fixedPos_bounds (s : State) : fixedPos (granulePasses s) ≤ 576 ∧ fixedPos (granulePasses s) % 2 = 0 := by
  obtain ⟨-, -, hle, ⟨q, hq⟩, -⟩ := granulePasses_spec s
  obtain ⟨-, heven⟩ := bigEnd_bounds s
  unfold fixedPos
  split <;> omega

theorem exec_granule_lineCount (h : exec .granule s = .next t) : t.lineCount.toNat ≤ 576 ∧ t.lineCount.toNat % 2 = 0 := by
  obtain ⟨-, rfl⟩ | ⟨-, -, -, rfl⟩ := exec_granule_next s t h
  · exact ⟨Nat.zero_le _, rfl⟩
  · obtain ⟨hle, heven⟩ := fixedPos_bounds s
    rw [complete_lineCount, granuleResult, BitVec.toNat_ofNat, Nat.mod_eq_of_lt (by omega)]
    exact ⟨hle, heven⟩

/-- After a legal command LINECOUNT is within its bounds: GRANULE keeps them (43_granule_decoder.md R179), and no other command
writes it. -/
theorem exec_lineCount {i : Instr} (hi : i.wf = true) (hs : s.Inv) (h : exec i s = .next t) :
    t.lineCount.toNat ≤ 576 ∧ t.lineCount.toNat % 2 = 0 := by
  have hkept (hsame : SameGranuleResults s t) : t.lineCount.toNat ≤ 576 ∧ t.lineCount.toNat % 2 = 0 := by
    obtain ⟨-, hline, -⟩ := hsame
    rw [hline]
    exact ⟨hs.lineCountBound, hs.lineCountEven⟩
  cases i with
  | granule => exact exec_granule_lineCount h
  | sym n => exact hkept (exec_sym_sameGranuleResults hi h)
  | walk n => exact hkept (exec_walk_sameGranuleResults hi h)
  | desc n => exact hkept (exec_desc_sameGranuleResults hi h)

theorem exec_inv {i : Instr} (hi : i.wf = true) (hs : s.Inv) (h : exec i s = .next t) : t.Inv := by
  obtain ⟨hle, heven⟩ := exec_lineCount hi hs h
  have hmem := (exec_keeps_resv_params h).1 ▸ hs.memoryCanonical
  obtain ⟨r, rfl⟩ := exec_next_complete hi h
  exact complete_inv hmem hle heven

theorem datapathTurn_inv (hs : s.Inv) (h : datapathTurn s = .next t) : t.Inv := by
  cases hphase : s.phase with
  | idle =>
    rw [datapathTurn_idle s hphase] at h
    cases h
    exact hs
  | run op n =>
    rw [datapathTurn_run s op n hphase] at h
    exact exec_inv (hs.runningLegal op n hphase) hs h

/-! ### One event, and one step -/

theorem deliver_inv (hs : s.Inv) {e : Event} (h : deliver e s = .next t) : t.Inv := by
  cases e with
  | access a => exact hostAccess_inv hs h
  | waitDone => cases h; exact waitDone_inv hs
  | moveCursor p => exact moveCursor_inv hs h
  | setBit p b => exact setBit_inv hs h
  | reset => cases h; exact resetMachine_inv hs
  | raiseShows => cases h; exact raiseShows_inv hs
  | finish => exact datapathTurn_inv hs h

/-- Settles O51: a step delivers one event, taken off the schedule, and every event keeps the invariant. -/
theorem invariantIsKeptByEveryStep : Obligations.InvariantIsKeptByEveryStep := by
  unfold Obligations.InvariantIsKeptByEveryStep
  intro s t hs h
  rw [step_eq_deliver] at h
  exact deliver_inv (hs.withInputs _) h

end Sys2Proof.Machine
end

section
/-! PROOF. A command's acceptance and its run (30_encoding.md R81, R84, R92; 70_reset_and_hazards.md R242, R245): a write to CMD,
the turn of the datapath, and the host's loop WAITDONE. -/

namespace Sys2Proof.Machine

variable {s t : State}

/-! ### A write to CMD -/

theorem hostWrite_cmd_of_busy (s : State) (w : Word) (hbusy : s.busy = true) :
    hostWrite Reg.cmd.offset w s = raise .busyWrite s := by
  simp [hostWrite, Reg.ofOffset_offset, hbusy]

theorem hostWrite_cmd_of_idle (s : State) (w : Word) (hidle : s.busy = false) :
    hostWrite Reg.cmd.offset w s = hostCommand w s := by
  simp [hostWrite, Reg.ofOffset_offset, hidle]

/-- In IDLE a legal word is accepted. -/
theorem hostWrite_cmd_of_command (s : State) {w : Word} {i : Instr} (hidle : s.busy = false) (h : decode w = .command i) :
    hostWrite Reg.cmd.offset w s = accept i.op (tableField w) s := by
  rw [hostWrite_cmd_of_idle s w hidle, hostCommand, h]

/-- In IDLE an illegal word is rejected. -/
theorem hostWrite_cmd_of_illegal (s : State) {w : Word} {r : Reject} (hidle : s.busy = false) (h : decode w = .illegal r) :
    hostWrite Reg.cmd.offset w s = illegalCommand s := by
  rw [hostWrite_cmd_of_idle s w hidle, hostCommand, h]

/-- With a write to CMD next, the step is that write. -/
theorem step_write_cmd {w : Word} {rest : List Event} (h : s.inputs = .access (.write Reg.cmd.offset 4 w) :: rest) :
    step s = .next (hostWrite Reg.cmd.offset w { s with inputs := rest }) :=
  (step_cons s _ rest h).trans (hostAccess_write_offset _ .cmd w)

/-- While a command runs no host access ends or replaces it (70_reset_and_hazards.md R242). -/
theorem hostAccess_phase_of_busy (hbusy : s.busy = true) {a : Access} (h : hostAccess a s = .next t) :
    t.phase = s.phase := by
  obtain ⟨addr, rfl⟩ | ⟨addr, v, rfl⟩ := hostAccess_next h
  · unfold hostRead
    split
    · rfl
    · split <;> rfl
  · unfold hostWrite
    split
    · rfl
    · simp only [hbusy, if_true]
      split_ifs <;> rfl

/-- Settles O5: by BUSY and by what the word decodes to. -/
theorem cmdWriteIsAcceptedRejectedOrDiscarded : Obligations.CmdWriteIsAcceptedRejectedOrDiscarded := by
  unfold Obligations.CmdWriteIsAcceptedRejectedOrDiscarded
  intro s w rest hinputs
  have hstep := step_write_cmd hinputs
  refine ⟨fun hbusy => ?_, fun hidle r hr => ?_, fun hidle i hi => ?_, fun hbusy a t => hostAccess_phase_of_busy hbusy⟩
  · exact hstep.trans (congrArg _ (hostWrite_cmd_of_busy _ w hbusy))
  · exact hstep.trans (congrArg _ (hostWrite_cmd_of_illegal _ hidle hr))
  · exact hstep.trans (congrArg _ (hostWrite_cmd_of_command _ hidle hi))

/-- legal(op, t) of R84: a word is some command's exactly when its OP is an operation's code and its TABLE suits that operation. -/
theorem exists_command_iff (w : Word) :
    (∃ i, decode w = .command i) ↔ ∃ o : Op, opField w = o.code ∧ (o.withTable (tableField w)).wf = true := by
  simp only [decode_eq_command_iff]
  constructor
  · rintro ⟨i, hwf, hop, htable⟩
    exact ⟨i.op, hop, by rwa [htable]⟩
  · rintro ⟨o, hop, hwf⟩
    exact ⟨o.withTable (tableField w), hwf, by rwa [Op.withTable_op], by rw [Op.withTable_op]⟩

theorem tableInRange_iff (n : BitVec 6) : tableInRange n = true ↔ n.toNat ≤ 33 :=
  decide_eq_true_iff.trans Nat.lt_succ_iff

/-- Settles O6: the legal words operation by operation, and the write of another. -/
theorem illegalWordSetsIllegalCmdAndDoneOnly : Obligations.IllegalWordSetsIllegalCmdAndDoneOnly := by
  unfold Obligations.IllegalWordSetsIllegalCmdAndDoneOnly
  refine fun w => ⟨?_, fun s hidle hno => ?_⟩
  · rw [exists_command_iff, ← tableInRange_iff]
    change _ ↔ opField w = 1 ∨ (opField w = 2 ∨ opField w = 3 ∨ opField w = 4) ∧ tableInRange (tableField w) = true
    constructor
    · rintro ⟨o, hop, hwf⟩
      cases o with
      | granule => exact .inl hop
      | sym => exact .inr ⟨.inl hop, hwf⟩
      | walk => exact .inr ⟨.inr (.inl hop), hwf⟩
      | desc => exact .inr ⟨.inr (.inr hop), hwf⟩
    · rintro (hop | ⟨hop | hop | hop, hwf⟩)
      · exact ⟨.granule, hop, rfl⟩
      · exact ⟨.sym, hop, hwf⟩
      · exact ⟨.walk, hop, hwf⟩
      · exact ⟨.desc, hop, hwf⟩
  · cases hdecode : decode w with
    | command i => exact absurd ⟨i, hdecode⟩ hno
    | illegal r =>
      exact (hostAccess_write_offset s .cmd w).trans (congrArg _ (hostWrite_cmd_of_illegal s hidle hdecode))

/-! ### The datapath's turn -/

/-- Settles O7: nothing scheduled and the completion scheduled are both the datapath's turn. -/
theorem stepRunsTheLatchedCommand : Obligations.StepRunsTheLatchedCommand := by
  unfold Obligations.StepRunsTheLatchedCommand
  intro s op n hphase
  refine ⟨fun hnil => ?_, fun rest hcons => ?_⟩
  · rw [step_nil s hnil, datapathTurn_run s op n hphase]
  · rw [step_cons s _ rest hcons]
    exact datapathTurn_run _ op n hphase

/-- Settles O8: what acceptance latches of the word's fields is the word's command. -/
theorem fetchWordRunsInTheNextStep : Obligations.FetchWordRunsInTheNextStep := by
  unfold Obligations.FetchWordRunsInTheNextStep
  intro s nbits w i hdecode
  obtain ⟨-, -, htable⟩ := (decode_eq_command_iff _ i).mp hdecode
  have hplaced : s.withFetchWord nbits w =
      { accept i.op (tableField (tableWord nbits w)) s with inputs := .finish :: s.inputs } := by
    simp only [State.withFetchWord, hdecode]
  rw [hplaced, step_cons _ _ s.inputs rfl]
  exact (datapathTurn_run (accept i.op _ s) i.op _ rfl).trans (by rw [htable])

/-! ### WAITDONE -/

/-- Another schedule, and another list of what the host has received: what a WAITDONE changes (log 21). -/
def State.withSchedule (s : State) (es : List Event) (as : List Word) : State := { s with inputs := es, answers := as }

/-- A legal command neither reads nor writes the schedule and what the host has received. -/
theorem exec_withSchedule {i : Instr} (hi : i.wf = true) (es : List Event) (as : List Word) (h : exec i s = .next t) :
    exec i (s.withSchedule es as) = .next (t.withSchedule es as) := by
  cases i with
  | granule =>
    have hpasses : granulePasses (s.withSchedule es as) = granulePasses s :=
      granulePasses_congr ⟨rfl, rfl, rfl, rfl, rfl, rfl, rfl, rfl, rfl, rfl, rfl, rfl, rfl⟩ rfl rfl rfl
    obtain ⟨hlen, rfl⟩ | ⟨hlen, hend, hcur, rfl⟩ := exec_granule_next s t h
    · exact exec_granule_zero _ hlen
    · rw [exec_granule_of_range (s.withSchedule es as) hlen hend, hpasses, retire_of_le _ hcur]
      simp only [granuleResult, hpasses, writeBack_eq]
      rfl
  | sym n =>
    obtain ⟨hcur, rfl⟩ := exec_sym_next s t n hi h
    rw [exec_sym_of_range _ n hi]
    refine (retire_of_le _ hcur).trans ?_
    simp only [writeBack_eq]
    rfl
  | walk n =>
    obtain ⟨hcur, rfl⟩ := exec_walk_next s t n hi h
    rw [exec_walk_of_range _ n hi]
    refine (retire_of_le _ hcur).trans ?_
    simp only [writeBack_eq]
    rfl
  | desc n =>
    obtain rfl := exec_desc_next hi h
    exact exec_desc_of_range _ n hi

/-- A read of STATUS answers its word, busy or not (70_reset_and_hazards.md R243). -/
theorem hostRead_status (s : State) : hostRead Reg.status.offset s = answer (statusWord s) s := by
  simp [hostRead, Reg.ofOffset_offset, Reg.isResult, readReg]

/-- With WAITDONE next and DONE = 1 the loop is over after this read. -/
theorem step_waitDone_of_done {rest : List Event} (h : s.inputs = .waitDone :: rest) (hdone : s.status.done = true) :
    step s = .next (s.withSchedule rest (statusWord s :: s.answers)) := by
  rw [step_cons s _ rest h, deliver, waitDone, hostRead_status, if_pos hdone]
  rfl

/-- With WAITDONE next and DONE = 0 the datapath has a turn and the loop goes round. -/
theorem step_waitDone_of_not_done {rest : List Event} (h : s.inputs = .waitDone :: rest) (hdone : s.status.done = false) :
    step s = .next (s.withSchedule (.finish :: .waitDone :: rest) (statusWord s :: s.answers)) := by
  rw [step_cons s _ rest h, deliver, waitDone, hostRead_status, if_neg (by simp [hdone])]
  rfl

/-- With the completion next, the running command's turn takes it off the schedule. -/
theorem step_finish_withSchedule {op : Op} {n : BitVec 6} (hphase : s.phase = .run op n)
    (hwf : (op.withTable n).wf = true) (es : List Event) (as : List Word)
    (h : exec (op.withTable n) s = .next t) : step (s.withSchedule (.finish :: es) as) = .next (t.withSchedule es as) := by
  have htaken : { s.withSchedule (.finish :: es) as with inputs := es } = s.withSchedule es as := rfl
  rw [step_cons _ _ es rfl, htaken, deliver, datapathTurn_run (s.withSchedule es as) op n hphase]
  exact exec_withSchedule hwf es as h

theorem core_run_succ {k : Nat} (h : step s = .next t) : core.run (k + 1) s = core.run k t := by
  have hcore : core.step s = .next t := h
  simp only [Host.Core.run, hcore]

/-- Settles O60: a read that finds DONE = 0, the command's turn, and a read that finds DONE = 1. -/
theorem waitDoneEndsWhenTheCommandCompletes : Obligations.WaitDoneEndsWhenTheCommandCompletes := by
  unfold Obligations.WaitDoneEndsWhenTheCommandCompletes
  intro s u op n rest hs hphase hinputs hexec
  have hwf := hs.runningLegal op n hphase
  have hnotDone := hs.runningNotDone (by simp [State.busy, hphase])
  obtain ⟨r, rfl⟩ := exec_next_complete hwf hexec
  have hread := step_waitDone_of_not_done hinputs hnotDone
  have hturn := step_finish_withSchedule hphase hwf (.waitDone :: rest) (statusWord s :: s.answers) hexec
  have hend := step_waitDone_of_done (s := (complete r).withSchedule (.waitDone :: rest) (statusWord s :: s.answers)) rfl rfl
  have hrun := (core_run_succ (k := 2) hread).trans ((core_run_succ (k := 1) hturn).trans (core_run_succ (k := 0) hend))
  exact ⟨_, hrun, rfl, rfl, rfl, rfl, rfl, rfl, rfl, rfl, rfl, rfl, rfl, rfl, rfl, rfl⟩

end Sys2Proof.Machine
end

section
/-! PROOF. The catalog and DESC (40_catalog.md R101 to R105, R107): the rows of R101, the descriptors they give whatever the
parameters are, the next state of a DESC, and what an empty table decodes to. -/

namespace Sys2Proof.Machine

variable (p : Params) {t : Nat}

/-! ### The rows of R101 -/

theorem catalogRows_empty (h : t = 0 ∨ t = 4 ∨ t = 14) : catalogRows.getD t .empty = .empty := by
  rcases h with rfl | rfl | rfl <;> rfl

theorem catalogRows_t16 (hlo : 16 ≤ t) (hhi : t ≤ 23) : catalogRows.getD t .empty = ⟨some .t16, some 511, none⟩ := by
  interval_cases t <;> rfl

theorem catalogRows_t24 (hlo : 24 ≤ t) (hhi : t ≤ 31) :
    ∃ n, catalogRows.getD t .empty = ⟨some .t24, some 512, some n⟩ := by
  interval_cases t <;> exact ⟨_, rfl⟩

/-! ### The descriptors they give -/

/-- A row's stated cells are the descriptor's, and the parameters fill in the others. -/
theorem catalog_of_row {row : CatalogRow} (h : catalogRows.getD t .empty = row) :
    catalog p t = ⟨row.tree, row.treeLength.getD (p.descTreeLen[t]?.getD 0), row.linBits.getD (p.descLinBits[t]?.getD 0)⟩ := by
  rw [catalog, h]

/-- The indices 0, 4 and 14 have no tree and no cells, whatever the parameters are (R104). -/
theorem catalog_empty (h : t = 0 ∨ t = 4 ∨ t = 14) : (catalog p t).tree = none ∧ (catalog p t).treeLength.val = 0 := by
  rw [catalog_of_row p (catalogRows_empty h)]
  exact ⟨rfl, rfl⟩

/-- The indices 16 to 23 share T16 (R102). -/
theorem catalog_t16 (hlo : 16 ≤ t) (hhi : t ≤ 23) :
    (catalog p t).tree = some .t16 ∧ (catalog p t).treeLength.val = 511 := by
  rw [catalog_of_row p (catalogRows_t16 hlo hhi)]
  exact ⟨rfl, rfl⟩

/-- The indices 24 to 31 share T24 (R102). -/
theorem catalog_t24 (hlo : 24 ≤ t) (hhi : t ≤ 31) :
    (catalog p t).tree = some .t24 ∧ (catalog p t).treeLength.val = 512 := by
  obtain ⟨n, hrow⟩ := catalogRows_t24 hlo hhi
  rw [catalog_of_row p hrow]
  exact ⟨rfl, rfl⟩

/-- Settles O23: the cells are those of the rows, and no linBits is above the 13 that its field can hold. -/
theorem catalogHoldsTheStatedCells : Obligations.CatalogHoldsTheStatedCells := by
  unfold Obligations.CatalogHoldsTheStatedCells
  refine fun p => ⟨fun t => catalog_empty p, fun t => catalog_t16 p, fun t => catalog_t24 p, rfl, rfl, rfl, ?_,
    fun t => linBits_le (catalog p t)⟩
  rintro t (rfl | rfl) <;> exact ⟨rfl, rfl⟩

/-! ### DESC -/

theorem isQuad_iff : isQuad t = true ↔ 31 < t :=
  decide_eq_true_iff

/-- A word whose OP is an operation's and whose TABLE does not suit that operation is rejected by name (30_encoding.md R84). -/
theorem decode_of_not_wf {w : Word} {o : Op} (hop : opField w = o.code) (hwf : (o.withTable (tableField w)).wf = false) :
    decode w = .illegal (.tableAbove33 o.code (tableField w)) := by
  rw [decode, hop, decodeFields_code, if_neg (Bool.eq_false_iff.mp hwf)]

/-- Settles O24: the completion of a DESC in range is `exec_desc_of_range`, and a TABLE out of range is no command's. -/
theorem descCompletesWithTheDescriptor : Obligations.DescCompletesWithTheDescriptor := by
  unfold Obligations.DescCompletesWithTheDescriptor
  refine ⟨fun s t ht => ?_, fun w hop htable => ?_, fun s t ht => ?_, fun s => ?_⟩
  · rw [exec_desc_of_range s t (tableInRange_of_le ht)]
    simp only [isQuad_iff]
    rfl
  · have hout : tableInRange (tableField w) = false := decide_eq_false (Nat.not_lt.mpr htable)
    exact decode_of_not_wf (o := .desc) hop hout
  · have hempty : t.toNat = 0 ∨ t.toNat = 4 ∨ t.toNat = 14 := by
      rcases ht with rfl | rfl | rfl <;> decide
    refine ⟨_, exec_desc_of_range s t (tableInRange_of_le (by omega)), ?_⟩
    simp [(catalog_empty s.params hempty).2]
  · exact ⟨_, exec_desc_of_range s 24 rfl, rfl, rfl, rfl, rfl⟩

/-! ### Empty tables -/

/-- A symbol of an empty table reads no bit and clears XR and YR (42_symbol_reconstructor.md R146). -/
theorem decodeSymbol_empty (e : Env) (t : Nat) (d : Datapath) (h : (catalog e.params t).treeLength.val = 0) :
    decodeSymbol e t d = { x := 0, y := 0, v := 0, w := 0, dp := { d with xr := 0, yr := 0 } } := by
  rw [decodeSymbol]
  exact if_pos h

/-- With the defaults of R101 the parameters keep R104: the default treeLength of no other index is 0. -/
theorem params_default_wf : Params.default.wf := by
  refine fun t ht => ⟨fun hzero => ?_, fun h => (catalog_empty _ h).2⟩
  have hrows : ∀ t < 34, (catalog Params.default t).treeLength.val = 0 → t = 0 ∨ t = 4 ∨ t = 14 := by decide
  exact hrows t ht hzero

/-- Settles O25: where a table is empty neither the walk nor the symbol goes further than its test for that. -/
theorem emptyTablesDecodeToZerosWithoutBits : Obligations.EmptyTablesDecodeToZerosWithoutBits := by
  unfold Obligations.EmptyTablesDecodeToZerosWithoutBits
  refine ⟨fun e t d ht => ?_, params_default_wf⟩
  have hempty := (catalog_empty e.params ht).2
  rw [decodeSymbol_empty e t d hempty, walkTree_empty e t d hempty]
  exact ⟨rfl, rfl, rfl, rfl, rfl, rfl, rfl, rfl, rfl⟩

end Sys2Proof.Machine
end

section
/-! PROOF. The Tree Walker and WALK (41_tree_walker.md R120 to R129): what one iteration on a decision node does, the code word
that stands between the start of a walk and its leaf, and the next state of a WALK. -/

namespace Sys2Proof.Machine

/-! ### Bits in the reservoir -/

theorem holdsBits_cons_iff (m : Memory) (p : Nat) (b : Bit) (bs : List Bit) :
    HoldsBits m p (b :: bs) ↔ m.read p = b ∧ HoldsBits m (p + 1) bs := by
  constructor
  · intro h
    refine ⟨h 0 (Nat.succ_pos _), fun i hi => ?_⟩
    have hbit := h (i + 1) (Nat.succ_lt_succ hi)
    rwa [← Nat.add_assoc, Nat.add_right_comm] at hbit
  · rintro ⟨hfirst, hrest⟩ i hi
    cases i with
    | zero => exact hfirst
    | succ i =>
      have hbit := hrest i (Nat.lt_of_succ_lt_succ hi)
      rwa [Nat.add_right_comm] at hbit

section Walk

variable (e : Env) (desc : Descriptor)

/-! ### One iteration on a decision node -/

/-- The datapath after an iteration on a decision node: the bit at the cursor is read, IDX is where the offset resolution left
it, and BUDGET is what is left (R122, R126). -/
def nextNode (n : Nat) (d : Datapath) : Datapath :=
  let r := resolve e desc (e.resv.read d.cur) maxChain (nodeRead e.params desc d)
  { r.2 with tr := { r.2.tr with budget := BitVec.ofNat 6 n } }

@[simp] theorem nextNode_cur (n : Nat) (d : Datapath) : (nextNode e desc n d).cur = d.cur + 1 := by
  simp [nextNode, nodeRead]

/-- An iteration on a decision node either goes on, to the node that its bit leads to, or soft-fails: because BUDGET is used up
or because its bit leads to no cell of the tree (R124 to R126). -/
theorem walkLoop_node_cases (n : Nat) {d : Datapath} (hin : d.tr.idx.toNat < desc.treeLength.val)
    (hnode : isLeaf (cellAt e.params desc d.tr.idx.toNat) = false) :
    (n ≠ 0 ∧ (nextNode e desc n d).tr.idx.toNat < desc.treeLength.val ∧
      Leads (cellAt e.params desc) desc.treeLength.val (e.resv.read d.cur) d.tr.idx.toNat
        (nextNode e desc n d).tr.idx.toNat ∧
      walkLoop e desc (n + 1) d = walkLoop e desc n (nextNode e desc n d)) ∨
    ((n = 0 ∨ ∀ j, Leads (cellAt e.params desc) desc.treeLength.val (e.resv.read d.cur) d.tr.idx.toNat j →
        desc.treeLength.val ≤ j) ∧
      (walkLoop e desc (n + 1) d).ok = false) := by
  have hresolve := resolve_spec e desc (e.resv.read d.cur) maxChain (nodeRead e.params desc d) hin rfl
    (Nat.le_add_left _ _)
  rw [walkLoop_node e desc n d hnode]
  split at hresolve
  · rename_i hled
    by_cases hend : n = 0 ∨ desc.treeLength.val ≤ (nextNode e desc n d).tr.idx.toNat
    · refine .inr ⟨hend.imp_right fun hout j hj => hj.unique hresolve ▸ hout, ?_⟩
      rw [walkRest, if_pos hled]
      exact congrArg Walk.ok (if_pos hend)
    · obtain ⟨hn, hinside⟩ := not_or.mp hend
      refine .inl ⟨hn, Nat.lt_of_not_le hinside, hresolve, ?_⟩
      rw [walkRest, if_pos hled]
      exact if_neg hend
  · rename_i hlost
    refine .inr ⟨.inr fun j hj => absurd hj (hresolve j), ?_⟩
    rw [walkRest, if_neg hlost]
    rfl

/-! ### The code word of a walk -/

/-- Ahead of a walk with `n` iterations left there is a code word: from the cursor on, the reservoir holds fewer than `n` bits
`bs`, which lead from the cell at IDX to the leaf at `k`. -/
structure CodeWordAhead (n : Nat) (d : Datapath) (bs : List Bit) (k : Nat) : Prop where
  short : bs.length < n
  held : HoldsBits e.resv d.cur bs
  leads : BitsLead (cellAt e.params desc) desc.treeLength.val d.tr.idx.toNat bs k
  atLeaf : isLeaf (cellAt e.params desc k) = true

/-- A walk from `d` has ended at the leaf at `k`, with the bits `bs` read. -/
structure EndsAtLeaf (d : Datapath) (bs : List Bit) (k : Nat) (r : Walk) : Prop where
  ok : r.ok = true
  x : r.x = leafX (cellAt e.params desc k)
  y : r.y = leafY (cellAt e.params desc k)
  cur : r.dp.cur = d.cur + bs.length

variable {e desc} {n k : Nat} {d : Datapath} {bs : List Bit}

/-- A walk that stands on a leaf ends there, with no bit read (R123). -/
theorem walkLoop_endsAtLeaf (hleaf : isLeaf (cellAt e.params desc d.tr.idx.toNat) = true) :
    EndsAtLeaf e desc d [] d.tr.idx.toNat (walkLoop e desc (n + 1) d) := by
  rw [walkLoop_leaf e desc n d hleaf]
  exact ⟨rfl, rfl, rfl, rfl⟩

/-- Where the iterations after a decision node end, the whole walk ends, with one bit more read. -/
theorem EndsAtLeaf.of_nextNode {r : Walk} (b : Bit) (h : EndsAtLeaf e desc (nextNode e desc n d) bs k r) :
    EndsAtLeaf e desc d (b :: bs) k r where
  ok := h.ok
  x := h.x
  y := h.y
  cur := by rw [h.cur, nextNode_cur, List.length_cons, Nat.add_right_comm, Nat.add_assoc]

/-- By induction on the iterations left: the first bit of the code word leads where the iteration goes, and the others are a code
word from there. -/
theorem CodeWordAhead.endsAtLeaf (h : CodeWordAhead e desc n d bs k) (hin : d.tr.idx.toNat < desc.treeLength.val) :
    EndsAtLeaf e desc d bs k (walkLoop e desc n d) := by
  induction n generalizing d bs with
  | zero => exact absurd h.short (Nat.not_lt_zero _)
  | succ n ih =>
    obtain ⟨hshort, hheld, hleads, hleaf⟩ := h
    cases hleads with
    | nil => exact walkLoop_endsAtLeaf hleaf
    | cons _ j _ b bs hnode hbit hj hrest =>
      obtain ⟨rfl, hheld⟩ := (holdsBits_cons_iff _ _ _ _).mp hheld
      have hshort : bs.length < n := Nat.lt_of_succ_lt_succ hshort
      rcases walkLoop_node_cases e desc n hin hnode with ⟨-, -, hled, hgo⟩ | ⟨hstop, -⟩
      · obtain rfl := hbit.unique hled
        rw [hgo]
        exact (ih ⟨hshort, by rwa [nextNode_cur], hrest, hleaf⟩ hj).of_nextNode _
      · rcases hstop with hn | hout
        · omega
        · exact absurd (hout j hbit) (Nat.not_le.mpr hj)

/-- By induction on the iterations left: the bit that an iteration reads leads to where the walk goes on, and the code word of
the rest stands behind it. -/
theorem exists_codeWordAhead (hin : d.tr.idx.toNat < desc.treeLength.val) (hok : (walkLoop e desc n d).ok = true) :
    ∃ bs k, CodeWordAhead e desc n d bs k := by
  induction n generalizing d with
  | zero => cases hok
  | succ n ih =>
    cases hcell : isLeaf (cellAt e.params desc d.tr.idx.toNat) with
    | true => exact ⟨[], _, Nat.succ_pos n, fun _ h => absurd h (Nat.not_lt_zero _), .nil _, hcell⟩
    | false =>
      rcases walkLoop_node_cases e desc n hin hcell with ⟨-, hj, hled, hgo⟩ | ⟨-, hsoft⟩
      · obtain ⟨bs, k, hshort, hheld, hrest, hleaf⟩ := ih hj (hgo ▸ hok)
        rw [nextNode_cur] at hheld
        exact ⟨_ :: bs, k, Nat.succ_lt_succ hshort, (holdsBits_cons_iff _ _ _ _).mpr ⟨rfl, hheld⟩,
          .cons _ _ _ _ _ hcell hled hj hrest, hleaf⟩
      · exact absurd (hsoft.symm.trans hok) Bool.false_ne_true

/-- A walk that ends without a leaf has read a bit. -/
theorem walkLoop_cur_lt (h : (walkLoop e desc (n + 1) d).ok = false) : d.cur < (walkLoop e desc (n + 1) d).dp.cur := by
  cases hcell : isLeaf (cellAt e.params desc d.tr.idx.toNat) with
  | true => exact absurd (h.symm.trans (walkLoop_endsAtLeaf hcell).ok) Bool.false_ne_true
  | false =>
    rw [walkLoop_node e desc n d hcell]
    have hrest := walkRest_cur_le e desc n (resolve e desc (e.resv.read d.cur) maxChain (nodeRead e.params desc d))
    rwa [resolve_cur] at hrest

/-! ### The whole walk -/

/-- The datapath at the root of a tree: IDX 0 and the whole BUDGET (R122). -/
def rootNode (d : Datapath) : Datapath :=
  { d with tr := { d.tr with idx := 0, budget := BitVec.ofNat 6 Config.walkBudget } }

theorem walkTree_of_nonempty {t : Nat} (d : Datapath) (h : (catalog e.params t).treeLength.val ≠ 0) :
    walkTree e t d = walkLoop e (catalog e.params t) Config.walkBudget (rootNode d) :=
  if_neg h

/-- Settles O28: the bits are a code word ahead of the root, and a walk ends at the leaf of the code word ahead of it. -/
theorem walkFindsEveryShortCodeWord : Obligations.WalkFindsEveryShortCodeWord := by
  unfold Obligations.WalkFindsEveryShortCodeWord
  intro e t d bs k hne hshort hleads hleaf hheld
  have hword : CodeWordAhead e (catalog e.params t) Config.walkBudget (rootNode d) bs k :=
    ⟨Nat.lt_succ_of_le hshort, hheld, hleads, hleaf⟩
  have hend := hword.endsAtLeaf (Nat.pos_of_ne_zero hne)
  rw [← walkTree_of_nonempty d hne] at hend
  have hframe := walkTree_frame e t d
  exact ⟨hend.ok, hend.x, hend.y, hframe.outX.symm, hframe.outY.symm, hend.cur⟩

/-- Settles O29: ahead of a walk that answers a leaf there is a code word, and it is at the leaf of this code word that it ends. -/
theorem walkedLeafIsACodeWord : Obligations.WalkedLeafIsACodeWord := by
  unfold Obligations.WalkedLeafIsACodeWord
  intro e t d hne hok
  have hin : (rootNode d).tr.idx.toNat < (catalog e.params t).treeLength.val := Nat.pos_of_ne_zero hne
  rw [walkTree_of_nonempty d hne] at hok ⊢
  obtain ⟨bs, k, hword⟩ := exists_codeWordAhead hin hok
  have hend := hword.endsAtLeaf hin
  exact ⟨bs, k, Nat.le_of_lt_succ hword.short, hword.held, hword.leads, hword.atLeaf, hend.x, hend.y, hend.cur⟩

/-- Settles O30: `walkTree_frame` says it of every walk but for the least number of bits, which `walkLoop_cur_lt` adds: an
empty table does not soft-fail. -/
theorem softFailedWalkAnswersTheLastLeaf : Obligations.SoftFailedWalkAnswersTheLastLeaf := by
  unfold Obligations.SoftFailedWalkAnswersTheLastLeaf
  intro e t d hsoft
  have hframe := walkTree_frame e t d
  obtain ⟨hx, hy⟩ := hframe.stale hsoft
  have hfails : (walkTree e t d).dp.softFails = d.softFails + 1 := by simpa [hsoft] using hframe.fails
  have hread : d.cur < (walkTree e t d).dp.cur := by
    by_cases hempty : (catalog e.params t).treeLength.val = 0
    · rw [walkTree_empty e t d hempty] at hsoft
      cases hsoft
    · rw [walkTree_of_nonempty d hempty] at hsoft ⊢
      exact walkLoop_cur_lt (n := 31) (d := rootNode d) hsoft
  exact ⟨hframe.outX.trans hx, hframe.outY.trans hy, hx, hy, hfails, hread, hframe.curBound⟩

/-- Settles O31: `walkTree_congr` says it of every walk. -/
theorem walkDependsOnlyOnTheBitsItReads : Obligations.WalkDependsOnlyOnTheBitsItReads := by
  unfold Obligations.WalkDependsOnlyOnTheBitsItReads
  exact walkTree_congr

end Walk

/-! ### WALK -/

/-- A WALK has a raise that STATUS has not shown yet exactly where its walk soft-failed and none has shown (log 8). -/
theorem shownSoft_lt_softFails_iff (s : State) (t : Nat) :
    s.shownSoft < (walkTree s.env t s.datapath).dp.softFails ↔
      (walkTree s.env t s.datapath).ok = false ∧ s.shownSoft = 0 := by
  have hfails : (walkTree s.env t s.datapath).dp.softFails = 0 + if (walkTree s.env t s.datapath).ok then 0 else 1 :=
    (walkTree_frame s.env t s.datapath).fails
  rw [hfails]
  cases (walkTree s.env t s.datapath).ok <;> simp

/-- Settles O32: a WALK of a table of the catalog ends in `retire`, which completes or refuses it by the cursor alone. -/
theorem walkCompletesWithTheRawNibbles : Obligations.WalkCompletesWithTheRawNibbles := by
  unfold Obligations.WalkCompletesWithTheRawNibbles
  intro s t ht
  rw [exec_walk_of_range s t (tableInRange_of_le ht)]
  refine ⟨fun hroom => ?_, fun hfits => ?_, retire_of_lt _⟩
  · have hbound : (walkTree s.env t.toNat s.datapath).dp.cur ≤ s.cur.toNat + 32 :=
      (walkTree_frame s.env t.toNat s.datapath).curBound
    omega
  · rw [retire_of_le _ hfits, writeBack_eq]
    simp [complete, setRes, shownSoft_lt_softFails_iff]

/-- Settles O33: the WALK of O32, whose walk of an empty table leaves the cursor and raises nothing. -/
theorem walkOfAnEmptyTableCompletes : Obligations.WalkOfAnEmptyTableCompletes := by
  unfold Obligations.WalkOfAnEmptyTableCompletes
  intro s t ht
  have hindex : t.toNat = 0 ∨ t.toNat = 4 ∨ t.toNat = 14 := by
    rcases ht with rfl | rfl | rfl <;> decide
  have hwalk := walkTree_empty s.env t.toNat s.datapath (catalog_empty s.params hindex).2
  obtain ⟨-, hcompletes, -⟩ := walkCompletesWithTheRawNibbles s t (by omega)
  rw [hwalk] at hcompletes
  simpa [State.datapath] using hcompletes (Nat.le_of_lt_succ s.cur.isLt)

end Sys2Proof.Machine
end

section
/-! PROOF. The Symbol Reconstructor and SYM (42_symbol_reconstructor.md R140 to R147): the value and the cursor of each of its
reads, the grammar of a pair and of a quadruple bit by bit, and the next state of a SYM. -/

namespace Sys2Proof.Machine

section Symbol

variable (e : Env)

/-! ### Signs and escapes -/

/-- A sign negates a magnitude where it has a sign bit and that bit is 1 (R142, R144). -/
theorem readSign_fst (m : Nat) (d : Datapath) :
    (readSign e m d).1 = if m ≠ 0 ∧ e.resv.read d.cur = true then -(m : Int) else (m : Int) := by
  by_cases hm : m = 0
  · simp [readSign, hm]
  · cases hbit : e.resv.read d.cur <;> simp [readSign, hm, hbit]

/-- The sign of a magnitude of one bit, as a quadruple has them: a magnitude of 0 reads no bit (R142). -/
theorem readSign_of_bit (b : Bool) (d : Datapath) :
    readSign e b.toNat d =
      (if b then (if e.resv.read d.cur then -1 else 1) else 0, { d with cur := d.cur + b.toNat }) := by
  cases b <;> rfl

/-- How many escape bits a raw nibble takes in a table of `k` linBits (R143). -/
def escapeBits (k : Nat) (r : BitVec 4) : Nat := if 0 < k ∧ r = 15 then k else 0

/-- The magnitude of a raw nibble whose escape bits, if it takes any, stand from position `p` on (R143). -/
def magnitude (k : Nat) (r : BitVec 4) (p : Nat) : Nat := r.toNat + e.resv.value p (escapeBits k r)

theorem readEscape_nibble (k : Nat) (r : BitVec 4) (d : Datapath) :
    readEscape e k r.toNat d = (magnitude e k r d.cur, { d with cur := d.cur + escapeBits k r }) := by
  have hnibble : r.toNat = 15 ↔ r = 15 := BitVec.toNat_inj (y := 15)
  simp only [readEscape, magnitude, escapeBits, hnibble]
  split
  · rw [readBits_fst, readBits_snd]
  · rfl

/-! ### The grammar of a symbol -/

variable {e} {t : Nat}

theorem decodeSymbol_eq_pairSymbol (d : Datapath) (ht : t ≤ 31) (hne : (catalog e.params t).treeLength.val ≠ 0) :
    decodeSymbol e t d =
      pairSymbol e (catalog e.params t).linBits.val (walkTree e t d).x (walkTree e t d).y (walkTree e t d).dp := by
  have hpair : ¬ isQuad t = true := fun h => Nat.not_lt.mpr ht (isQuad_iff.mp h)
  simp only [decodeSymbol, if_neg hne, if_neg hpair]

/-- The tables 32 and 33 have 31 cells each, whatever the parameters are (40_catalog.md R101). -/
theorem treeLength_of_quad (p : Params) (ht : t = 32 ∨ t = 33) : (catalog p t).treeLength.val = 31 := by
  rcases ht with rfl | rfl <;> rfl

theorem decodeSymbol_eq_quadSymbol (d : Datapath) (ht : t = 32 ∨ t = 33) :
    decodeSymbol e t d = quadSymbol e (walkTree e t d).y (walkTree e t d).dp := by
  have hne : (catalog e.params t).treeLength.val ≠ 0 := by rw [treeLength_of_quad _ ht]; decide
  have hquad : isQuad t = true := isQuad_iff.mpr (by omega)
  simp only [decodeSymbol, if_neg hne, if_pos hquad]

/-- Settles O35: each value of a pair is an escape and then a sign, and the y value starts where the x value ends. -/
theorem pairSymbolIsReadInOrder : Obligations.PairSymbolIsReadInOrder := by
  unfold Obligations.PairSymbolIsReadInOrder
  intro e t d ht hne
  simp only [decodeSymbol_eq_pairSymbol d ht hne, pairSymbol, readPairValue, readEscape_nibble, readSign_fst, readSign_snd,
    true_and]
  exact ⟨rfl, rfl, rfl⟩

/-- Settles O36: the four signs of a quadruple, each starting where the one before it ends. -/
theorem quadSymbolIsReadInOrder : Obligations.QuadSymbolIsReadInOrder := by
  unfold Obligations.QuadSymbolIsReadInOrder
  intro e t d ht
  simp only [decodeSymbol_eq_quadSymbol d ht, quadSymbol, readSign_of_bit, and_self]

end Symbol

/-! ### SYM -/

/-- A value of a symbol is its own 32-bit two's complement (R144, R147). -/
theorem toInt_ofInt_of_natAbs_le {x : Int} (h : x.natAbs ≤ 8206) : (BitVec.ofInt 32 x).toInt = x := by
  rw [BitVec.toInt_ofInt]
  exact Int.bmod_eq_of_le (by omega) (by omega)

/-- A completion draws from where the command began, which no run of the datapath moves (10_state.md R38, R39). -/
theorem completed_complete {s t : State} (h : t.draws = s.draws) : Completed s (complete t) :=
  ⟨rfl, rfl, congrArg Transient.free h, congrArg (· + 1) h, rfl, rfl⟩

/-- Settles O34: a SYM of a table of the catalog ends in `retire`, which completes or refuses it by the cursor alone, and the
symbol's bounds keep its values in 32 bits. -/
theorem symCompletesWithTheSignedValues : Obligations.SymCompletesWithTheSignedValues := by
  unfold Obligations.SymCompletesWithTheSignedValues
  intro s t ht
  have hframe := decodeSymbol_frame s.env t.toNat s.datapath
  rw [exec_sym_of_range s t (tableInRange_of_le ht)]
  refine ⟨fun hroom => ?_, fun hfits => ?_, retire_of_lt _⟩
  · have hbound : (decodeSymbol s.env t.toNat s.datapath).dp.cur ≤ s.cur.toNat + 60 := hframe.curBound
    omega
  · refine ⟨_, retire_of_le _ hfits, ?_⟩
    rw [writeBack_eq]
    exact ⟨toInt_ofInt_of_natAbs_le hframe.xBound, toInt_ofInt_of_natAbs_le hframe.yBound,
      toInt_ofInt_of_natAbs_le hframe.vBound, toInt_ofInt_of_natAbs_le hframe.wBound,
      Nat.mod_eq_of_lt (Nat.lt_succ_of_le hfits), rfl, rfl, by simp [complete, setRes],
      completed_complete rfl⟩

end Sys2Proof.Machine
end

section
/-! PROOF. What every command leaves alone (43_granule_decoder.md R180; 10_state.md R41, R42; 20_memory.md R55). -/

namespace Sys2Proof.Machine

variable {s t : State}

/-- What no command writes: CTRL and the side information, ILLEGAL_CMD and BUSY_WRITE, the schedule and what the host has
received. -/
structure CommandFrame (s t : State) : Prop where
  control : SameControl s t
  illegalCmd : t.status.illegalCmd = s.status.illegalCmd
  busyWrite : t.status.busyWrite = s.status.busyWrite
  inputs : t.inputs = s.inputs
  answers : t.answers = s.answers

theorem exec_commandFrame {i : Instr} (hi : i.wf = true) (h : exec i s = .next t) : CommandFrame s t := by
  cases i with
  | granule =>
    obtain ⟨-, rfl⟩ | ⟨-, -, -, rfl⟩ := exec_granule_next s t h
    · constructor <;> simp [SameControl]
    · constructor <;> simp [SameControl, granuleResult]
  | sym n =>
    obtain ⟨-, rfl⟩ := exec_sym_next s t n hi h
    constructor <;> simp [SameControl]
  | walk n =>
    obtain ⟨-, rfl⟩ := exec_walk_next s t n hi h
    constructor <;> simp [SameControl]
  | desc n =>
    obtain rfl := exec_desc_next hi h
    constructor <;> simp [SameControl]

/-- Settles O46: the frame of a command, and the reservoir and the parameters that `exec` keeps. -/
theorem commandsLeaveControlAndReservoirAlone : Obligations.CommandsLeaveControlAndReservoirAlone := by
  unfold Obligations.CommandsLeaveControlAndReservoirAlone
  intro i s t hi h
  obtain ⟨hcontrol, hillegal, hbusyWrite, hinputs, hanswers⟩ := exec_commandFrame hi h
  obtain ⟨hresv, hparams⟩ := exec_keeps_resv_params h
  exact ⟨hcontrol, hillegal, hbusyWrite, fun p => by rw [hresv], hresv, hparams, hinputs, hanswers⟩

end Sys2Proof.Machine
end

section
/-! PROOF. GRANULE as one command (43_granule_decoder.md R162 to R166, R173 to R180): where its run ends, what it writes of the
passes' results, and what holds after it. -/

namespace Sys2Proof.Machine

variable {s t : State}

/-! ### The region boundaries and the tables -/

theorem isShort_iff : isShort s = true ↔ s.ws = 1 ∧ s.bt = 2 :=
  decide_eq_true_iff

theorem regionStarts_of_short (h : isShort s = true) : regionStart1 s = 36 ∧ regionStart2 s = 576 := by
  simp [regionStart1, regionStart2, h, Config.shortR1]

theorem regionStarts_of_long (h : ¬ isShort s = true) :
    regionStart1 s = sfb s.params s.srIndex (s.r0c.toNat + 1) ∧
      regionStart2 s = sfb s.params s.srIndex (s.r0c.toNat + s.r1c.toNat + 2) := by
  simp [regionStart1, regionStart2, h]

section Regions

variable {rs1 rs2 : BitVec 16} {pos : Nat}

theorem tableFor_region0 (h : pos < rs1.toNat) : tableFor s rs1 rs2 pos = s.ts0.toNat := if_pos h

theorem tableFor_region1 (h1 : rs1.toNat ≤ pos) (h2 : pos < rs2.toNat) : tableFor s rs1 rs2 pos = s.ts1.toNat := by
  rw [tableFor, if_neg (by omega), if_pos h2]

theorem tableFor_region2 (h1 : rs1.toNat ≤ pos) (h2 : rs2.toNat ≤ pos) : tableFor s rs1 rs2 pos = s.ts2.toNat := by
  rw [tableFor, if_neg (by omega), if_neg (by omega)]

theorem tableFor_le (s : State) (rs1 rs2 : BitVec 16) (pos : Nat) : tableFor s rs1 rs2 pos ≤ 31 :=
  Nat.not_lt.mp (of_decide_eq_false (isQuad_tableFor s rs1 rs2 pos))

end Regions

/-- Settles O41: the three regions in turn, and the boundaries 36 and 576 of a short block. -/
theorem tableSelectionByRegion : Obligations.TableSelectionByRegion := by
  unfold Obligations.TableSelectionByRegion
  refine fun s rs1 rs2 pos => ⟨tableFor_region0, tableFor_region1, tableFor_region2, tableFor_le s rs1 rs2 pos, ?_⟩
  intro hshort hpos
  obtain ⟨h1, h2⟩ := regionStarts_of_short (isShort_iff.mpr hshort)
  rw [h1, h2]
  split
  · next hlow => exact tableFor_region0 hlow
  · next hhigh => exact tableFor_region1 (Nat.not_lt.mp hhigh) hpos

/-! ### A granule of no length -/

theorem SpecMem.zeroFrom_zero (m : SpecMem) : m.zeroFrom 0 = Vector.replicate 576 0 := by
  refine Vector.ext fun i hi => ?_
  have hline := SpecMem.line_zeroFrom m 0 i
  rw [SpecMem.line_eq _ hi] at hline
  rw [hline, Vector.getElem_replicate]
  rfl

/-- Settles O38: `exec_granule_zero`, whose zero fill starts at line 0. -/
theorem zeroLengthGranuleCompletes : Obligations.ZeroLengthGranuleCompletes := by
  unfold Obligations.ZeroLengthGranuleCompletes
  intro s h
  rw [exec_granule_zero s h, SpecMem.zeroFrom_zero]
  rfl

/-! ### Where the passes end, in the terms of the side information -/

/-- The region boundaries stand through both passes (R164). -/
theorem granulePasses_regionStarts (s : State) :
    (granulePasses s).dp.tr.rs1 = regionStart1 s ∧ (granulePasses s).dp.tr.rs2 = regionStart2 s := by
  obtain ⟨hframe, -⟩ := granulePasses_spec s
  exact ⟨hframe.rs1, hframe.rs2⟩

theorem granulePasses_endPos (h : s.part23Len ≠ 0) : (granulePasses s).dp.tr.endPos.toNat + 1 = granuleEnd s := by
  obtain ⟨hframe, -⟩ := granulePasses_spec s
  rw [hframe.endPos, granuleStart_endPos s h]

/-- The overrun condition is that the passes left the cursor beyond the granule (R173). -/
theorem overran_iff (h : s.part23Len ≠ 0) :
    overran (granulePasses s) = true ↔ granuleEnd s < (granulePasses s).dp.cur := by
  rw [overran, decide_eq_true_iff, granulePasses_endPos h]

/-- POS after the overrun correction (R174). -/
theorem fixedPos_eq (h : s.part23Len ≠ 0) :
    fixedPos (granulePasses s) =
      (granulePasses s).dp.tr.pos.toNat - if granuleEnd s < (granulePasses s).dp.cur then 4 else 0 := by
  simp only [fixedPos, overran_iff h]
  split <;> rfl

theorem fixedPos_le_pos (g : Gran) : fixedPos g ≤ g.dp.tr.pos.toNat := by
  unfold fixedPos
  split <;> omega

/-! ### What a granule of some length writes -/

@[simp] theorem granuleResult_status (s : State) :
    (granuleResult s).status =
      { s.status with
        softFail := s.status.softFail || decide (s.shownSoft < (granulePasses s).dp.softFails)
        rollback := s.status.rollback || (overran (granulePasses s) && !s.shownRollback) } :=
  writeBack_status s _ _

@[simp] theorem granuleResult_spec (s : State) :
    (granuleResult s).spec = (granulePasses s).spec.zeroFrom (fixedPos (granulePasses s)) := by rw [granuleResult]

@[simp] theorem granuleResult_region1Start (s : State) : (granuleResult s).region1Start = regionStart1 s :=
  (granulePasses_regionStarts s).1

@[simp] theorem granuleResult_region2Start (s : State) : (granuleResult s).region2Start = regionStart2 s :=
  (granulePasses_regionStarts s).2

@[simp] theorem granuleResult_xr (s : State) : (granuleResult s).xr = (granulePasses s).dp.xr := writeBack_xr s _ _

@[simp] theorem granuleResult_yr (s : State) : (granuleResult s).yr = (granulePasses s).dp.yr := writeBack_yr s _ _

@[simp] theorem granuleResult_draws (s : State) : (granuleResult s).draws = s.draws := writeBack_draws s _ _

theorem granuleResult_cur_toNat (h : granuleEnd s ≤ Config.maxPosition) : (granuleResult s).cur.toNat = granuleEnd s := by
  have hcur : (granuleResult s).cur = BitVec.ofNat 32 (granuleEnd s) := writeBack_cur s _ _
  rw [hcur]
  exact Nat.mod_eq_of_lt (Nat.lt_succ_of_le h)

theorem granuleResult_lineCount_toNat (s : State) : (granuleResult s).lineCount.toNat = fixedPos (granulePasses s) := by
  obtain ⟨hle, -⟩ := fixedPos_bounds s
  exact Nat.mod_eq_of_lt (by omega)

/-- What the next state of a GRANULE with PART23_LEN ≠ 0 holds of the passes' results (R164, R173 to R177). -/
structure GranuleAnswer (s t : State) : Prop where
  cur : t.cur.toNat = granuleEnd s
  lineCount : t.lineCount.toNat = fixedPos (granulePasses s)
  line : ∀ i, t.spec.line i = if i < t.lineCount.toNat then (granulePasses s).spec.line i else 0
  region1Start : t.region1Start = regionStart1 s
  region2Start : t.region2Start = regionStart2 s
  xr : t.xr = (granulePasses s).dp.xr
  yr : t.yr = (granulePasses s).dp.yr
  status : t.status = { s.status with
    done := true
    softFail := s.status.softFail || decide (s.shownSoft < (granulePasses s).dp.softFails)
    rollback := s.status.rollback || (overran (granulePasses s) && !s.shownRollback) }
  completed : Completed s t

theorem granuleAnswer_complete (h : granuleEnd s ≤ Config.maxPosition) : GranuleAnswer s (complete (granuleResult s)) where
  cur := by rw [complete_cur, granuleResult_cur_toNat h]
  lineCount := granuleResult_lineCount_toNat s
  line i := by
    rw [complete_lineCount, granuleResult_lineCount_toNat, complete_spec, granuleResult_spec, SpecMem.line_zeroFrom]
  region1Start := by simp
  region2Start := by simp
  xr := by simp
  yr := by simp
  status := by simp
  completed := completed_complete (granuleResult_draws s)

theorem exec_granule_answer (hlen : s.part23Len ≠ 0) (h : exec .granule s = .next t) : GranuleAnswer s t := by
  obtain ⟨hzero, -⟩ | ⟨-, hend, -, rfl⟩ := exec_granule_next s t h
  · exact absurd hzero hlen
  · exact granuleAnswer_complete hend

theorem exec_granule_of_end_out_of_range (hlen : s.part23Len ≠ 0) (hend : Config.maxPosition < granuleEnd s) :
    exec .granule s = .refused .positionRange := by
  change execGranule s = _
  rw [execGranule, if_neg hlen, if_pos hend]

/-- Settles O39: a GRANULE ends in `retire`, which completes or refuses it by how far the passes carried the cursor. -/
theorem granuleCompletesWithinThePositionRange : Obligations.GranuleCompletesWithinThePositionRange := by
  unfold Obligations.GranuleCompletesWithinThePositionRange
  intro s hlen
  refine ⟨fun hroom => ?_, fun hend hcur => ?_, fun hout => ?_⟩
  · obtain ⟨hframe, -⟩ := granulePasses_spec s
    have hbound : (granulePasses s).dp.cur ≤ s.cur.toNat + (60 * maxPairs + 36 * maxQuads) := hframe.curBound
    simp only [maxPairs, maxQuads] at hbound
    omega
  · have hanswer : GranuleAnswer s (complete (granuleResult s)) := granuleAnswer_complete hend
    have hover : overran (granulePasses s) = decide (granuleEnd s < (granulePasses s).dp.cur) :=
      Bool.eq_iff_iff.mpr ((overran_iff hlen).trans decide_eq_true_iff.symm)
    refine ⟨_, ?_, hanswer.completed, hanswer.cur, hover ▸ hanswer.status⟩
    rw [exec_granule_of_range s hlen hend, retire_of_le _ hcur]
  · by_cases hend : granuleEnd s ≤ Config.maxPosition
    · have hcur : Config.maxPosition < (granulePasses s).dp.cur := hout.resolve_left (Nat.not_lt.mpr hend)
      rw [exec_granule_of_range s hlen hend, retire_of_lt _ hcur]
    · exact exec_granule_of_end_out_of_range hlen (Nat.not_le.mp hend)

/-- Settles O40: the passes keep the boundaries that R164 computes. -/
theorem granuleWritesTheRegionBoundaries : Obligations.GranuleWritesTheRegionBoundaries := by
  unfold Obligations.GranuleWritesTheRegionBoundaries
  intro s t hlen h
  have hanswer := exec_granule_answer hlen h
  rw [hanswer.region1Start, hanswer.region2Start]
  exact ⟨fun hshort => regionStarts_of_short (isShort_iff.mpr hshort),
    fun hlong => regionStarts_of_long (mt isShort_iff.mp hlong)⟩

theorem spec_getElem_eq_line (m : SpecMem) (i : Fin 576) : m[i] = m.line i :=
  (SpecMem.line_eq m i.isLt).symm

/-- Settles O44: the zero fill, line by line. -/
theorem zeroFillKeepsTheDecodedLines : Obligations.ZeroFillKeepsTheDecodedLines := by
  unfold Obligations.ZeroFillKeepsTheDecodedLines
  intro s t hlen h i
  simp only [spec_getElem_eq_line]
  exact (exec_granule_answer hlen h).line i

/-- From LINECOUNT on a granule leaves 0, and below it values in -8206..8206 (R175, R179). -/
theorem exec_granule_line (h : exec .granule s = .next t) (i : Nat) :
    (t.lineCount.toNat ≤ i → t.spec.line i = 0) ∧ (t.spec.line i).toInt.natAbs ≤ 8206 := by
  by_cases hlen : s.part23Len = 0
  · have hzero : t.spec.line i = 0 := by
      obtain ⟨-, rfl⟩ | ⟨hne, -⟩ := exec_granule_next s t h
      · exact SpecMem.line_zeroFrom s.spec 0 i
      · exact absurd hlen hne
    exact ⟨fun _ => hzero, by rw [hzero]; decide⟩
  · have hanswer := exec_granule_answer hlen h
    obtain ⟨-, -, -, -, hlines⟩ := granulePasses_spec s
    rw [hanswer.line]
    refine ⟨fun hge => if_neg (Nat.not_lt.mpr hge), ?_⟩
    split
    · next hlt =>
      rw [hanswer.lineCount] at hlt
      exact hlines i (Nat.lt_of_lt_of_le hlt (fixedPos_le_pos _))
    · decide

/-- Settles O42: the passes' own bounds, carried through the correction and the zero fill. -/
theorem granulePostconditions : Obligations.GranulePostconditions := by
  unfold Obligations.GranulePostconditions
  intro s t h
  obtain ⟨hle, heven⟩ := exec_granule_lineCount h
  refine ⟨fun hlen => (exec_granule_answer hlen h).cur, fun hzero => ?_, fun i hge => ?_, hle, heven, fun hlen => ?_,
    fun i => ?_⟩
  · obtain ⟨-, rfl⟩ | ⟨hne, -⟩ := exec_granule_next s t h
    · rfl
    · exact absurd hzero hne
  · rw [spec_getElem_eq_line]
    exact (exec_granule_line h i).1 hge
  · obtain ⟨-, -, -, ⟨q, hpos⟩, -⟩ := granulePasses_spec s
    refine ⟨q, hpos, ?_⟩
    rw [(exec_granule_answer hlen h).lineCount, fixedPos_eq hlen, hpos]
    change bigEnd s + 4 * q - (if granuleEnd s < _ then 4 else 0) = if granuleEnd s < _ then bigEnd s + 4 * q - 4 else _
    split <;> rfl
  · have hrange := (exec_granule_line h i).2
    rw [spec_getElem_eq_line]
    omega

end Sys2Proof.Machine
end

section
/-! PROOF. A granule symbol by symbol (43_granule_decoder.md R163 to R174): the granule decoder before each of its symbols, the
symbol that is decoded there and the lines it is stored to; and a granule whose symbols are all empty. -/

namespace Sys2Proof.Machine

variable (s : State)

/-! ### The symbols of a granule, numbered -/

/-- The granule decoder before symbol `k`, were the passes to go on without end: the pairs up to BIGEND (R167), and then
quadruples (R170). -/
def granAt : Nat → Gran
  | 0 => granuleStart s
  | k + 1 => if k < bigEnd s / 2 then bigStep s (granAt k) else smallStep s (granAt k)

/-- The line at which symbol `k` begins. -/
def symbolLine (k : Nat) : Nat := 2 * min k (bigEnd s / 2) + 4 * (k - bigEnd s / 2)

/-- The table of symbol `k` (R166, R169). -/
def symbolTable (k : Nat) : Nat :=
  if k < bigEnd s / 2 then tableFor s (regionStart1 s) (regionStart2 s) (2 * k) else count1Table s

/-- The datapath on which symbol `k` is decoded: TBL holds its table. -/
def symbolInput (k : Nat) : Datapath :=
  { (granAt s k).dp with tr := { (granAt s k).dp.tr with tbl := BitVec.ofNat 6 (symbolTable s k) } }

/-- Symbol `k` of a granule. -/
def symbolAt (k : Nat) : Symbol := decodeSymbol s.env (symbolTable s k) (symbolInput s k)

variable {s} {k m i : Nat}

theorem symbolLine_of_le (h : k ≤ bigEnd s / 2) : symbolLine s k = 2 * k := by
  unfold symbolLine
  omega

theorem symbolLine_add (k : Nat) : symbolLine s (bigEnd s / 2 + k) = 2 * (bigEnd s / 2) + 4 * k := by
  unfold symbolLine
  omega

theorem symbolLine_succ : symbolLine s (k + 1) = symbolLine s k + if k < bigEnd s / 2 then 2 else 4 := by
  unfold symbolLine
  split <;> omega

theorem symbolTable_of_lt (h : k < bigEnd s / 2) :
    symbolTable s k = tableFor s (regionStart1 s) (regionStart2 s) (2 * k) := if_pos h

theorem symbolTable_of_ge (h : ¬ k < bigEnd s / 2) : symbolTable s k = count1Table s := if_neg h

theorem granAt_succ_of_lt (h : k < bigEnd s / 2) : granAt s (k + 1) = bigStep s (granAt s k) := if_pos h

theorem granAt_succ_of_ge (h : ¬ k < bigEnd s / 2) : granAt s (k + 1) = smallStep s (granAt s k) := if_neg h

theorem granAt_frame (s : State) (k : Nat) : PassFrame (60 * k) (granuleStart s) (granAt s k) := by
  induction k with
  | zero => exact .refl _
  | succ k ih =>
    by_cases hk : k < bigEnd s / 2
    · rw [granAt_succ_of_lt hk]
      exact ih.trans (bigStep_frame s _)
    · rw [granAt_succ_of_ge hk]
      exact (ih.trans (smallStep_frame s _)).mono (by omega)

/-- POS does not wrap before the end of SPEC. -/
theorem granAt_pos (h : symbolLine s k ≤ 576) : (granAt s k).dp.tr.pos.toNat = symbolLine s k := by
  induction k with
  | zero =>
    rw [symbolLine_of_le (Nat.zero_le _)]
    rfl
  | succ k ih =>
    rw [symbolLine_succ] at h ⊢
    have hpos := ih (by omega)
    by_cases hk : k < bigEnd s / 2
    · rw [if_pos hk] at h ⊢
      rw [granAt_succ_of_lt hk, bigStep_pos s _ (by omega), hpos]
    · rw [if_neg hk] at h ⊢
      rw [granAt_succ_of_ge hk, smallStep_pos s _ (by omega), hpos]

/-! ### From one symbol to the next -/

/-- After a pair: its datapath with POS moved on by 2, and its values in their two lines (R167). -/
theorem granAt_succ_pair (h : k < bigEnd s / 2) :
    granAt s (k + 1) =
      { dp := { (symbolAt s k).dp with tr := { (symbolAt s k).dp.tr with pos := (symbolAt s k).dp.tr.pos + 2 } }
        spec := ((granAt s k).spec.store (2 * k) (symbolAt s k).x).store (2 * k + 1) (symbolAt s k).y } := by
  have hframe := granAt_frame s k
  have hrs1 : (granAt s k).dp.tr.rs1 = regionStart1 s := hframe.rs1
  have hrs2 : (granAt s k).dp.tr.rs2 = regionStart2 s := hframe.rs2
  have hline := symbolLine_of_le h.le
  have hend := (bigEnd_bounds s).1
  have hpos : (granAt s k).dp.tr.pos.toNat = 2 * k := by rw [granAt_pos (by omega), hline]
  rw [granAt_succ_of_lt h, bigStep, symbolAt, symbolInput, symbolTable_of_lt h, hrs1, hrs2, hpos]

/-- After a quadruple: its datapath with POS moved on by 4, and its values in their four lines (R170, R171). -/
theorem granAt_succ_quad (h : ¬ k < bigEnd s / 2) (hline : symbolLine s k ≤ 576) :
    granAt s (k + 1) =
      { dp := { (symbolAt s k).dp with tr := { (symbolAt s k).dp.tr with pos := (symbolAt s k).dp.tr.pos + 4 } }
        spec := ((((granAt s k).spec.store (symbolLine s k) (symbolAt s k).v).store (symbolLine s k + 1)
          (symbolAt s k).w).store (symbolLine s k + 2) (symbolAt s k).x).store (symbolLine s k + 3) (symbolAt s k).y } := by
  rw [granAt_succ_of_ge h, smallStep, symbolAt, symbolInput, symbolTable_of_ge h, granAt_pos hline]

/-- The datapath `b` goes on where `a` ended: it has its cursor, XR, YR and soft-fails. -/
def GoesOn (a b : Datapath) : Prop := b.cur = a.cur ∧ b.xr = a.xr ∧ b.yr = a.yr ∧ b.softFails = a.softFails

theorem symbolAt_goesOn (h : symbolLine s k ≤ 576) : GoesOn (symbolAt s k).dp (symbolInput s (k + 1)) := by
  unfold symbolInput
  by_cases hk : k < bigEnd s / 2
  · rw [granAt_succ_pair hk]
    exact ⟨rfl, rfl, rfl, rfl⟩
  · rw [granAt_succ_quad hk h]
    exact ⟨rfl, rfl, rfl, rfl⟩

/-! ### The lines a symbol is stored to -/

theorem granAt_pair_lines (h : k < bigEnd s / 2) :
    (granAt s (k + 1)).spec.line (2 * k) = BitVec.ofInt 16 (symbolAt s k).x ∧
      (granAt s (k + 1)).spec.line (2 * k + 1) = BitVec.ofInt 16 (symbolAt s k).y := by
  have hend := (bigEnd_bounds s).1
  have hn : Config.numLines = 576 := rfl
  rw [granAt_succ_pair h]
  constructor
  · rw [SpecMem.line_store_other _ _ _ _ (by omega), SpecMem.line_store_same _ _ (by omega)]
  · rw [SpecMem.line_store_same _ _ (by omega)]

theorem granAt_quad_lines (h : ¬ k < bigEnd s / 2) (hline : symbolLine s k ≤ 572) :
    (granAt s (k + 1)).spec.line (symbolLine s k) = BitVec.ofInt 16 (symbolAt s k).v ∧
      (granAt s (k + 1)).spec.line (symbolLine s k + 1) = BitVec.ofInt 16 (symbolAt s k).w ∧
      (granAt s (k + 1)).spec.line (symbolLine s k + 2) = BitVec.ofInt 16 (symbolAt s k).x ∧
      (granAt s (k + 1)).spec.line (symbolLine s k + 3) = BitVec.ofInt 16 (symbolAt s k).y := by
  have hn : Config.numLines = 576 := rfl
  rw [granAt_succ_quad h (by omega)]
  refine ⟨?_, ?_, ?_, ?_⟩
  · rw [SpecMem.line_store_other _ _ _ _ (by omega), SpecMem.line_store_other _ _ _ _ (by omega),
      SpecMem.line_store_other _ _ _ _ (by omega), SpecMem.line_store_same _ _ (by omega)]
  · rw [SpecMem.line_store_other _ _ _ _ (by omega), SpecMem.line_store_other _ _ _ _ (by omega),
      SpecMem.line_store_same _ _ (by omega)]
  · rw [SpecMem.line_store_other _ _ _ _ (by omega), SpecMem.line_store_same _ _ (by omega)]
  · rw [SpecMem.line_store_same _ _ (by omega)]

/-- A symbol stores to no line before its own. -/
theorem granAt_succ_line (h : symbolLine s k ≤ 576) (hi : i < symbolLine s k) :
    (granAt s (k + 1)).spec.line i = (granAt s k).spec.line i := by
  by_cases hk : k < bigEnd s / 2
  · have hline := symbolLine_of_le hk.le
    rw [granAt_succ_pair hk, SpecMem.line_store_other _ _ _ _ (by omega), SpecMem.line_store_other _ _ _ _ (by omega)]
  · rw [granAt_succ_quad hk h, SpecMem.line_store_other _ _ _ _ (by omega), SpecMem.line_store_other _ _ _ _ (by omega),
      SpecMem.line_store_other _ _ _ _ (by omega), SpecMem.line_store_other _ _ _ _ (by omega)]

theorem symbolLine_mono (h : k ≤ m) : symbolLine s k ≤ symbolLine s m := by
  unfold symbolLine
  omega

/-- The lines before a symbol keep what they hold through all later symbols. -/
theorem granAt_line_of_le (h : k ≤ m) (hline : symbolLine s m ≤ 576) (hi : i < symbolLine s k) :
    (granAt s m).spec.line i = (granAt s k).spec.line i := by
  induction m, h using Nat.le_induction with
  | base => rfl
  | succ m hkm ih =>
    have hsucc : symbolLine s m ≤ symbolLine s (m + 1) := symbolLine_mono m.le_succ
    have hmono : symbolLine s k ≤ symbolLine s m := symbolLine_mono hkm
    rw [granAt_succ_line (by omega) (by omega), ih (by omega)]

/-! ### Where the passes stop among the symbols -/

/-- The big-values pass ends before the first symbol that is no pair. -/
theorem bigPass_granAt (n : Nat) (hk : k ≤ bigEnd s / 2) (hn : bigEnd s / 2 ≤ k + n) :
    bigPass s n (granAt s k) = granAt s (bigEnd s / 2) := by
  have hend := bigEnd_bounds s
  induction n generalizing k with
  | zero =>
    obtain rfl : k = bigEnd s / 2 := by omega
    rfl
  | succ n ih =>
    have hline := symbolLine_of_le hk
    have hpos := granAt_pos (k := k) (s := s) (by omega)
    rw [bigPass]
    split
    · rw [← granAt_succ_of_lt (by omega)]
      exact ih (by omega) (by omega)
    · obtain rfl : k = bigEnd s / 2 := by omega
      rfl

/-- The small-values pass ends before the first quadruple that may not begin. -/
theorem smallPass_granAt (n : Nat) (hline : symbolLine s (bigEnd s / 2 + k) ≤ 576)
    (hn : 573 ≤ symbolLine s (bigEnd s / 2 + k) + 4 * n) (hbefore : ∀ j < k, smallGoes (granAt s (bigEnd s / 2 + j)) = true) :
    ∃ q, smallPass s n (granAt s (bigEnd s / 2 + k)) = granAt s (bigEnd s / 2 + q) ∧
      symbolLine s (bigEnd s / 2 + q) ≤ 576 ∧ (∀ j < q, smallGoes (granAt s (bigEnd s / 2 + j)) = true) ∧
      smallGoes (granAt s (bigEnd s / 2 + q)) = false := by
  have hpos := granAt_pos hline
  induction n generalizing k with
  | zero => exact ⟨k, rfl, hline, hbefore, decide_eq_false (by omega)⟩
  | succ n ih =>
    rw [smallPass]
    split
    · next hgoes =>
      have hle : (granAt s (bigEnd s / 2 + k)).dp.tr.pos.toNat ≤ 572 := (of_decide_eq_true hgoes).1
      rw [← granAt_succ_of_ge (by omega), Nat.add_assoc]
      rw [symbolLine_add] at hline hn hpos
      have hnext : symbolLine s (bigEnd s / 2 + (k + 1)) ≤ 576 := by rw [symbolLine_add]; omega
      refine ih hnext (by rw [symbolLine_add]; omega) (fun j hj => ?_) (granAt_pos hnext)
      obtain hlt | rfl := Nat.lt_succ_iff_lt_or_eq.mp hj
      · exact hbefore j hlt
      · exact hgoes
    · next hstops => exact ⟨k, rfl, hline, hbefore, Bool.eq_false_iff.mpr hstops⟩

/-- A quadruple may begin where its lines exist and the cursor is within the granule (R168). -/
def QuadBegins (s : State) (k : Nat) : Prop :=
  2 * (bigEnd s / 2) + 4 * k ≤ 572 ∧ (symbolInput s (bigEnd s / 2 + k)).cur < granuleEnd s

theorem smallGoes_granAt_iff (hlen : s.part23Len ≠ 0) (hline : symbolLine s (bigEnd s / 2 + k) ≤ 576) :
    smallGoes (granAt s (bigEnd s / 2 + k)) = true ↔ QuadBegins s k := by
  rw [smallGoes, decide_eq_true_iff, granAt_pos hline, symbolLine_add, (granAt_frame s _).endPos,
    QuadBegins, ← granuleStart_endPos s hlen, Nat.lt_succ_iff]
  rfl

/-- Both passes: the BIGEND / 2 pairs, and all the quadruples up to the first that may not begin. -/
theorem granulePasses_eq_granAt (hlen : s.part23Len ≠ 0) :
    ∃ q, granulePasses s = granAt s (bigEnd s / 2 + q) ∧ symbolLine s (bigEnd s / 2 + q) ≤ 576 ∧
      (∀ k < q, QuadBegins s k) ∧ ¬ QuadBegins s q := by
  have hend := bigEnd_bounds s
  have hbig : bigPass s maxPairs (granuleStart s) = granAt s (bigEnd s / 2 + 0) :=
    bigPass_granAt (k := 0) maxPairs (Nat.zero_le _) (by simp only [maxPairs]; omega)
  have hfirst : symbolLine s (bigEnd s / 2 + 0) ≤ 576 := by rw [symbolLine_add]; omega
  obtain ⟨q, hsmall, hline, hbefore, hstop⟩ :=
    smallPass_granAt maxQuads hfirst (by simp only [maxQuads]; omega) (fun _ h => absurd h (Nat.not_lt_zero _))
  refine ⟨q, by rw [granulePasses, hbig, hsmall], hline, fun k hk => ?_, fun hbegins => ?_⟩
  · have hmono := symbolLine_mono (s := s) (Nat.add_le_add_left hk.le (bigEnd s / 2))
    exact (smallGoes_granAt_iff hlen (hmono.trans hline)).mp (hbefore k hk)
  · exact Bool.eq_false_iff.mp hstop ((smallGoes_granAt_iff hlen hline).mpr hbegins)

/-- Below LINECOUNT a line of the next state is what the symbols before any later line left there. -/
theorem GranuleAnswer.line_granAt {t : State} (h : GranuleAnswer s t) (hpasses : granulePasses s = granAt s m)
    (hline : symbolLine s m ≤ 576) (hk : k ≤ m) (hi : i < symbolLine s k) (hcount : i < t.lineCount.toNat) :
    t.spec.line i = (granAt s k).spec.line i := by
  rw [h.line, if_pos hcount, hpasses, granAt_line_of_le hk hline hi]

/-- Settles O43: the chain is that of the inputs of the symbols, and no later symbol, nor the zero fill, touches a line below
LINECOUNT. -/
theorem granuleLinesAreItsSymbolsInOrder : Obligations.GranuleLinesAreItsSymbolsInOrder := by
  unfold Obligations.GranuleLinesAreItsSymbolsInOrder
  intro s t hlen h
  have hanswer := exec_granule_answer hlen h
  obtain ⟨q, hpasses, hline, hbegins, hstop⟩ := granulePasses_eq_granAt hlen
  refine ⟨symbolInput s, q, ?_⟩
  intro n pair quad goesOn holds
  have hpair : ∀ k < n, pair k = symbolAt s k := fun k hk => by rw [symbolAt, symbolTable_of_lt hk]
  have hquad : ∀ k, quad k = symbolAt s (n + k) := fun k => by rw [symbolAt, symbolTable_of_ge (by omega)]
  have hholds : ∀ {k i v}, k ≤ n + q → i < symbolLine s k → (granAt s k).spec.line i = BitVec.ofInt 16 v → holds i v :=
    fun hk hi hv hcount => (hanswer.line_granAt hpasses hline hk hi hcount).trans hv
  have hroom : ∀ {k}, k ≤ n + q → symbolLine s k ≤ 576 := fun hk => (symbolLine_mono hk).trans hline
  refine ⟨⟨rfl, rfl, rfl, rfl⟩, fun k hk => ?_, fun k hk => ?_, hstop, ?_, ?_, ?_, ?_⟩
  · rw [hpair k hk]
    obtain ⟨hx, hy⟩ := granAt_pair_lines hk
    have hnext : symbolLine s (k + 1) = 2 * (k + 1) := symbolLine_of_le hk
    exact ⟨symbolAt_goesOn (hroom (by omega)), hholds (by omega) (by omega) hx, hholds (by omega) (by omega) hy⟩
  · rw [hquad k]
    obtain ⟨hfits, hcur⟩ := hbegins k hk
    have hthis : symbolLine s (n + k) = 2 * n + 4 * k := symbolLine_add k
    have hnext : symbolLine s (n + k + 1) = 2 * n + 4 * (k + 1) := symbolLine_add (k + 1)
    obtain ⟨hv, hw, hx, hy⟩ := granAt_quad_lines (s := s) (k := n + k) (by omega) (hthis ▸ hfits)
    rw [hthis] at hv hw hx hy
    exact ⟨hfits, hcur, symbolAt_goesOn (hroom (by omega)), hholds (by omega) (by omega) hv,
      hholds (by omega) (by omega) hw, hholds (by omega) (by omega) hx, hholds (by omega) (by omega) hy⟩
  · rw [hanswer.lineCount, fixedPos_eq hlen, hpasses, granAt_pos hline, symbolLine_add]
    rfl
  · rw [hanswer.xr, hpasses]
    rfl
  · rw [hanswer.yr, hpasses]
    rfl
  · rw [hanswer.status, hpasses]
    rfl

/-! ### A granule of empty tables -/

/-- What `k` pairs of empty tables leave: no bit read, no soft-fail, XR and YR cleared by the first, and lines of 0. -/
structure EmptyPairs (s : State) (k : Nat) (g : Gran) : Prop where
  cur : g.dp.cur = s.cur.toNat
  softFails : g.dp.softFails = 0
  nibbles : 0 < k → g.dp.xr = 0 ∧ g.dp.yr = 0
  lines : ∀ i < 2 * k, g.spec.line i = 0

theorem granAt_emptyPairs (hempty : ∀ k < bigEnd s / 2, (catalog s.params (symbolTable s k)).treeLength.val = 0)
    (hk : k ≤ bigEnd s / 2) : EmptyPairs s k (granAt s k) := by
  induction k with
  | zero => exact ⟨rfl, rfl, fun h => absurd h (Nat.lt_irrefl 0), fun i hi => absurd hi (Nat.not_lt_zero i)⟩
  | succ k ih =>
    obtain ⟨hcur, hfails, -, hlines⟩ := ih (by omega)
    have hsymbol : symbolAt s k = _ := decodeSymbol_empty s.env _ (symbolInput s k) (hempty k hk)
    obtain ⟨hx, hy⟩ := granAt_pair_lines hk
    rw [hsymbol] at hx hy
    have hline : symbolLine s k = 2 * k := symbolLine_of_le (by omega)
    have hend := bigEnd_bounds s
    obtain ⟨kcur, kxr, kyr, kfails⟩ := symbolAt_goesOn (s := s) (k := k) (by omega)
    rw [hsymbol] at kcur kxr kyr kfails
    refine ⟨kcur.trans hcur, kfails.trans hfails, fun _ => ⟨kxr, kyr⟩, fun i hi => ?_⟩
    obtain hlt | rfl | rfl : i < 2 * k ∨ i = 2 * k ∨ i = 2 * k + 1 := by omega
    · rw [granAt_succ_line (by omega) (by omega), hlines i hlt]
    · exact hx
    · exact hy

/-- With each of TS0, TS1 and TS2 an empty index, every pair has an empty table. -/
theorem symbolTable_empty (h : ∀ ts ∈ [s.ts0, s.ts1, s.ts2], ts = 0 ∨ ts = 4 ∨ ts = 14) (hk : k < bigEnd s / 2) :
    (catalog s.params (symbolTable s k)).treeLength.val = 0 := by
  have hindex : ∀ ts ∈ [s.ts0, s.ts1, s.ts2], ts.toNat = 0 ∨ ts.toNat = 4 ∨ ts.toNat = 14 := fun ts hts => by
    rcases h ts hts with rfl | rfl | rfl <;> decide
  refine (catalog_empty s.params ?_).2
  rw [symbolTable_of_lt hk, tableFor]
  split
  · exact hindex s.ts0 (by simp)
  · split
    · exact hindex s.ts1 (by simp)
    · exact hindex s.ts2 (by simp)

/-- Settles O45: the pairs read no bit, and no quadruple begins beyond line 572. -/
theorem granuleOfEmptyTables : Obligations.GranuleOfEmptyTables := by
  unfold Obligations.GranuleOfEmptyTables
  intro s hlen hend hbig htables
  have hvalues : bigEnd s = min (2 * s.bigValues.toNat) 576 := rfl
  have heven := (bigEnd_bounds s).2
  obtain ⟨q, hpasses, hline, hbegins, -⟩ := granulePasses_eq_granAt hlen
  obtain rfl : q = 0 := Nat.eq_zero_of_not_pos fun hq => by
    have hfits := (hbegins 0 hq).1
    omega
  rw [Nat.add_zero] at hpasses hline
  have hempty := granAt_emptyPairs (s := s) (fun k => symbolTable_empty htables) le_rfl
  rw [← hpasses] at hempty
  have hpos : (granulePasses s).dp.tr.pos.toNat = min (2 * s.bigValues.toNat) 576 := by
    rw [hpasses, granAt_pos hline, symbolLine_of_le le_rfl]
    omega
  have hanswer : GranuleAnswer s (complete (granuleResult s)) := granuleAnswer_complete hend
  have hcur : (granulePasses s).dp.cur ≤ Config.maxPosition := hempty.cur ▸ Nat.le_of_lt_succ s.cur.isLt
  obtain ⟨hxr, hyr⟩ := hempty.nibbles (by omega)
  refine ⟨_, (exec_granule_of_range s hlen hend).trans (retire_of_le _ hcur), fun i => ?_, hanswer.xr.trans hxr,
    hanswer.yr.trans hyr, hanswer.cur, ?_, ?_⟩
  · rw [spec_getElem_eq_line, hanswer.line]
    split
    · next hlow =>
      rw [hanswer.lineCount] at hlow
      have hle := fixedPos_le_pos (granulePasses s)
      exact hempty.lines i (by omega)
    · rfl
  · simp [hempty.softFails]
  · rw [hanswer.lineCount, fixedPos_eq hlen, hpos, hempty.cur]
    rfl

end Sys2Proof.Machine
end

section
/-! PROOF. Conditions, the sticky bits and the interrupt (60_exceptions.md R201, R202, R205), and the machine that is left alone
in IDLE (R213). -/

namespace Sys2Proof.Machine

variable {s t : State}

/-! ### Raising a condition -/

/-- No condition's bit is DONE. -/
theorem raise_done (s : State) (c : Condition) : (raise c s).status.done = s.status.done := by cases c <;> rfl

theorem raise_irqEn (s : State) (c : Condition) : (raise c s).irqEn = s.irqEn := by rw [raise_eq]

theorem raise_busy (s : State) (c : Condition) : (raise c s).busy = s.busy := by rw [raise_eq]; rfl

/-- The mask of a condition has the bit of its code alone. -/
theorem getLsbD_conditionMask (c : Condition) (k : Nat) (hk : k < 32) :
    (1#32 <<< c.code).getLsbD k = decide (k = c.code) := by
  revert k
  cases c <;> decide

/-- STATUS after a raise, bit by bit: the bits above BUSY_WRITE read 0 before and after, and no condition has a code there. -/
theorem statusWord_raise (s : State) (c : Condition) : statusWord (raise c s) = statusWord s ||| (1#32 <<< c.code) := by
  refine BitVec.eq_of_getLsbD_eq fun k hk => ?_
  rw [BitVec.getLsbD_or, getLsbD_conditionMask c k hk, getLsbD_statusWord, getLsbD_statusWord]
  match k with
  | 0 => cases c <;> simp [raise_busy, Condition.code]
  | 1 => cases c <;> simp [raise_done, Condition.code]
  | 2 | 3 | 4 | 5 => cases c <;> simp [raise, Condition.code]
  | k + 6 => cases c <;> simp [Condition.code]

/-- Settles O12: `raise_eq` is the frame, and STATUS is compared bit by bit. -/
theorem raiseSetsTheBitOfItsCode : Obligations.RaiseSetsTheBitOfItsCode := by
  unfold Obligations.RaiseSetsTheBitOfItsCode
  exact fun s c => ⟨raise_eq s c, statusWord_raise s c⟩

/-! ### The interrupt -/

/-- irq falls with DONE. -/
theorem irq_of_not_done (h : s.status.done = false) : s.irq = false := by rw [State.irq, h, Bool.and_false]

/-- irq falls with IRQ_EN. -/
theorem irq_of_not_irqEn (h : s.irqEn = false) : s.irq = false := by rw [State.irq, h, Bool.false_and]

/-- A write of 1 to STATUS.DONE acknowledges the completion. -/
theorem writeStatus_done_of_set (s : State) {v : Word} (hv : v.getLsbD 1 = true) : (writeStatus v s).status.done = false := by
  simp [writeStatus, hv]

/-- Settles O13: each clause is what becomes of IRQ_EN and of DONE. -/
theorem irqFollowsEnableAndDone : Obligations.IrqFollowsEnableAndDone := by
  unfold Obligations.IrqFollowsEnableAndDone
  refine fun s => ⟨rfl, fun v hv => ?_, fun op n => irq_of_not_done rfl, fun v hidle hv => ?_, ?_, fun c => ?_⟩
  · refine ⟨writeStatus v s, ?_, irq_of_not_done (writeStatus_done_of_set s hv)⟩
    exact (hostAccess_write_offset s .status v).trans (congrArg _ (hostWrite_status s v))
  · refine ⟨writeReg .ctrl v s, ?_, irq_of_not_irqEn hv⟩
    exact (hostAccess_write_offset s .ctrl v).trans (congrArg _ (hostWrite_of_isRW s .ctrl v hidle rfl))
  · rw [State.irq, illegalCommand_irqEn, illegalCommand_status, Bool.and_true]
  · rw [State.irq, State.irq, raise_irqEn, raise_done]

/-! ### The sticky bits under a command -/

/-- GRANULE adds to SOFTFAIL and ROLLBACK what its run raised, and without a payload it raises nothing. -/
theorem exec_granule_keeps_raised (h : exec .granule s = .next t) :
    (s.status.softFail = true → t.status.softFail = true) ∧ (s.status.rollback = true → t.status.rollback = true) := by
  obtain ⟨-, rfl⟩ | ⟨-, -, -, rfl⟩ := exec_granule_next s t h
  · exact ⟨id, id⟩
  · constructor <;> intro hset <;> simp [hset]

/-- The two bits that a run may raise stay set: SOFTFAIL is only added to, and of SYM, WALK and DESC none writes ROLLBACK. -/
theorem exec_keeps_raised {i : Instr} (hi : i.wf = true) (h : exec i s = .next t) :
    (s.status.softFail = true → t.status.softFail = true) ∧ (s.status.rollback = true → t.status.rollback = true) := by
  have hrollback (hsame : SameGranuleResults s t) : s.status.rollback = true → t.status.rollback = true := by
    obtain ⟨-, -, -, -, hkept⟩ := hsame
    exact hkept.trans
  cases i with
  | granule => exact exec_granule_keeps_raised h
  | sym n =>
    refine ⟨fun hset => ?_, hrollback (exec_sym_sameGranuleResults hi h)⟩
    obtain ⟨-, rfl⟩ := exec_sym_next s t n hi h
    simp [hset]
  | walk n =>
    refine ⟨fun hset => ?_, hrollback (exec_walk_sameGranuleResults hi h)⟩
    obtain ⟨-, rfl⟩ := exec_walk_next s t n hi h
    simp [hset]
  | desc n =>
    obtain ⟨-, -, -, hsoft⟩ := exec_desc_keeps_datapath h
    exact ⟨hsoft.trans, hrollback (exec_desc_sameGranuleResults hi h)⟩

/-- Settles O14: an ill-formed command sets ILLEGAL_CMD and DONE only, and ILLEGAL_CMD and BUSY_WRITE are in the frame of every
other. -/
theorem commandsClearNoStickyBit : Obligations.CommandsClearNoStickyBit := by
  unfold Obligations.CommandsClearNoStickyBit
  intro i s t h
  cases hi : i.wf with
  | false =>
    rw [exec_of_not_wf s i hi] at h
    cases h
    exact ⟨id, id, fun _ => rfl, id⟩
  | true =>
    obtain ⟨hsoft, hrollback⟩ := exec_keeps_raised hi h
    have hframe := exec_commandFrame hi h
    exact ⟨hsoft, hrollback, hframe.illegalCmd.trans, hframe.busyWrite.trans⟩

/-! ### Nothing to do -/

/-- Settles O9: with nothing scheduled the step is the datapath's turn, which in IDLE changes nothing. -/
theorem idleMachineStaysAsItIs : Obligations.IdleMachineStaysAsItIs := by
  unfold Obligations.IdleMachineStaysAsItIs
  intro s hidle hnil
  rw [step_nil s hnil, datapathTurn_idle s hidle]

end Sys2Proof.Machine
end

section
/-! PROOF. The host while a command runs (70_reset_and_hazards.md R242 to R245): what each access does, and that it reaches nothing
the command's results depend on. -/

namespace Sys2Proof.Machine

variable {s t u : State}

/-! ### What the host sees of a state -/

/-- `s` with all that a host access or an early raise can change while a command runs as it is in `o`: STATUS, what the host has
received, the draws, and which raises show. -/
def State.observedAs (s o : State) : State :=
  { s with
    status := o.status
    answers := o.answers
    draws := o.draws
    shownSoft := o.shownSoft
    shownRollback := o.shownRollback }

theorem hostRead_observedAs (s : State) (a : Nat) : hostRead a s = s.observedAs (hostRead a s) := by
  unfold hostRead
  split
  · rfl
  · split <;> rfl

theorem hostWrite_observedAs (a : Nat) (v : Word) (hbusy : s.busy = true) :
    hostWrite a v s = s.observedAs (hostWrite a v s) := by
  unfold hostWrite
  split
  · rfl
  · simp only [hbusy, if_true]
    split_ifs <;> rfl

/-- R242: while a command runs a host access reaches only what the host sees. -/
theorem hostAccess_observedAs {a : Access} (hbusy : s.busy = true) (h : hostAccess a s = .next t) :
    t = s.observedAs t := by
  obtain ⟨addr, rfl⟩ | ⟨addr, v, rfl⟩ := hostAccess_next h
  · exact hostRead_observedAs s addr
  · exact hostWrite_observedAs addr v hbusy

theorem sameControl_observedAs (s o : State) : SameControl s (s.observedAs o) :=
  ⟨rfl, rfl, rfl, rfl, rfl, rfl, rfl, rfl, rfl, rfl, rfl, rfl, rfl⟩

/-! ### Writes -/

/-- CMD and the read-write registers ignore a write, and it is recorded (R242). -/
theorem hostWrite_of_busy {a : Nat} {r : Reg} (v : Word) (hbusy : s.busy = true) (hreg : Reg.ofOffset a = some r)
    (hr : r = .cmd ∨ r.isRW = true) : hostWrite a v s = raise .busyWrite s := by
  have hstatus : r ≠ .status := by
    rintro rfl
    rcases hr with h | h <;> cases h
  rcases hr with rfl | hrw
  · simp [hostWrite, hreg, hbusy]
  · simp [hostWrite, hreg, hbusy, hstatus, hrw]

/-- Settles O20: by the register at the offset, and for the side information by what the host can reach at all. -/
theorem writesWhileBusy : Obligations.WritesWhileBusy := by
  unfold Obligations.WritesWhileBusy
  intro s a v hbusy haligned hwindow
  have hmade := hostAccess_write_of_aligned s v haligned hwindow
  refine ⟨fun r hreg hr => ?_, fun hreg => ⟨?_, rfl⟩, fun hreadOnly => ?_, fun t h => ?_⟩
  · exact hmade.trans (congrArg _ (hostWrite_of_busy v hbusy hreg hr))
  · obtain rfl := Reg.offset_of_ofOffset haligned hreg
    exact hmade.trans (congrArg _ (hostWrite_status s v))
  · exact hmade.trans (congrArg _ (hostWrite_of_not_writable s v hreadOnly))
  · rw [hostAccess_observedAs hbusy h]
    exact sameControl_observedAs s t

/-! ### Reads -/

/-- A result register reads as the free value of the next draw (R244). -/
theorem hostRead_result {r : Reg} (hbusy : s.busy = true) (hr : r.isResult = true) :
    hostRead r.offset s = answer (Config.busyRead s.draws) { s with draws := s.draws + 1 } := by
  simp [hostRead, Reg.ofOffset_offset, hbusy, hr]

/-- Every other register reads as its current value, busy or not (R243). -/
theorem hostRead_of_not_result (s : State) {r : Reg} (hr : r.isResult = false) :
    hostRead r.offset s = answer (readReg r s) s := by
  simp [hostRead, Reg.ofOffset_offset, hr]

theorem hostAccess_read_offset (s : State) (r : Reg) : hostAccess (.read r.offset 4) s = .next (hostRead r.offset s) := by
  obtain ⟨haligned, hwindow⟩ := r.offset_bounds
  exact hostAccess_read_of_aligned s haligned hwindow

/-- Settles O21: the registers listed are those that R244 speaks of. -/
theorem resultReadsWhileBusyAreFree : Obligations.ResultReadsWhileBusyAreFree := by
  unfold Obligations.ResultReadsWhileBusyAreFree
  intro s r hbusy hr
  have hresult : r.isResult = true := by
    obtain hlisted | ⟨i, rfl⟩ := hr
    · revert r
      decide
    · rfl
  exact (hostAccess_read_offset s r).trans (congrArg _ (hostRead_result hbusy hresult))

/-- No register that the host can write shows a result. -/
theorem Reg.isResult_of_isRW {r : Reg} (h : r.isRW = true) : r.isResult = false := by
  cases r with
  | lineCount | region1Start | region2Start | resX | resY | resV | resW | spec i => cases h
  | _ => rfl

/-- Settles O22: none of these registers is a result, and the invariant has DONE = 0 while BUSY = 1. -/
theorem controlReadsWhileBusyAreCurrent : Obligations.ControlReadsWhileBusyAreCurrent := by
  unfold Obligations.ControlReadsWhileBusyAreCurrent
  refine ⟨fun s r hs hbusy hr => ⟨?_, ?_, ?_⟩, fun s a hbusy haligned hwindow hreg => ?_⟩
  · have hresult : r.isResult = false := by
      obtain rfl | hrw := hr
      · rfl
      · exact Reg.isResult_of_isRW hrw
    exact (hostAccess_read_offset s r).trans (congrArg _ (hostRead_of_not_result s hresult))
  · exact (getLsbD_statusWord s 0).trans hbusy
  · exact (getLsbD_statusWord s 1).trans (hs.runningNotDone hbusy)
  · obtain hcmd | hnone := hreg
    · obtain rfl := Reg.offset_of_ofOffset haligned hcmd
      exact (hostAccess_read_offset s .cmd).trans (congrArg _ (hostRead_of_not_result s rfl))
    · rw [hostAccess_read_of_aligned s haligned hwindow, hostRead, hnone]
      rfl

/-! ### The running command -/

theorem granulePasses_observedAs (s o : State) : granulePasses (s.observedAs o) = granulePasses s :=
  granulePasses_congr (sameControl_observedAs s o) rfl rfl rfl

/-- A command's results do not depend on what the host sees of the state that it runs in. -/
theorem exec_observedAs {i : Instr} (hi : i.wf = true) (o : State) (h : exec i s = .next u) :
    ∃ v, exec i (s.observedAs o) = .next v ∧ SameResults u v := by
  cases i with
  | granule =>
    have hpasses := granulePasses_observedAs s o
    obtain ⟨hlen, rfl⟩ | ⟨hlen, hend, hcur, rfl⟩ := exec_granule_next s u h
    · refine ⟨_, exec_granule_zero (s.observedAs o) hlen, ?_⟩
      simp [SameResults, State.observedAs]
    · refine ⟨complete (granuleResult (s.observedAs o)), ?_, ?_⟩
      · rw [exec_granule_of_range (s.observedAs o) hlen hend, hpasses, retire_of_le _ hcur]
      · simp only [granuleResult, hpasses, writeBack_eq]
        exact ⟨rfl, rfl, rfl, rfl, rfl, rfl, rfl, rfl, rfl, rfl, rfl⟩
  | sym n =>
    obtain ⟨hcur, rfl⟩ := exec_sym_next s u n hi h
    refine ⟨_, (exec_sym_of_range _ n hi).trans (retire_of_le _ hcur), ?_⟩
    simp [SameResults, State.observedAs, State.env, State.datapath]
  | walk n =>
    obtain ⟨hcur, rfl⟩ := exec_walk_next s u n hi h
    refine ⟨_, (exec_walk_of_range _ n hi).trans (retire_of_le _ hcur), ?_⟩
    simp [SameResults, State.observedAs, State.env, State.datapath]
  | desc n =>
    obtain rfl := exec_desc_next hi h
    refine ⟨_, exec_desc_of_range (s.observedAs o) n hi, ?_⟩
    simp [SameResults, State.observedAs]

theorem busy_of_run {op : Op} {n : BitVec 6} (h : s.phase = .run op n) : s.busy = true := by simp [State.busy, h]

/-- Settles O57: a host access reaches only what the host sees, and the command ends in `complete`. -/
theorem hostAccessesDoNotDisturbARunningCommand : Obligations.HostAccessesDoNotDisturbARunningCommand := by
  unfold Obligations.HostAccessesDoNotDisturbARunningCommand
  intro s t u op n a hs hphase haccess hexec
  have hwf := hs.runningLegal op n hphase
  have hbusy := busy_of_run hphase
  obtain ⟨v, hv, hresults⟩ := exec_observedAs hwf t hexec
  rw [← hostAccess_observedAs hbusy haccess] at hv
  obtain ⟨r, rfl⟩ := exec_next_complete hwf hv
  exact ⟨hostAccess_phase_of_busy hbusy haccess, _, hv, hresults, rfl⟩

/-! ### Sticky bits that show early -/

theorem raiseShows_observedAs (s : State) : raiseShows s = s.observedAs (raiseShows s) := by
  unfold raiseShows
  split
  · rfl
  · dsimp only
    split_ifs <;> rfl

theorem raisesOf_observedAs (i : Instr) (s o : State) : raisesOf i (s.observedAs o) = raisesOf i s := by
  cases i with
  | granule =>
    simp only [raisesOf, granulePasses_observedAs]
    rfl
  | _ => rfl

/-- STATUS at completion: DONE, and what `raiseAll` sets for the whole run (60_exceptions.md R201). -/
theorem exec_status {i : Instr} (hi : i.wf = true) (h : exec i s = .next t) :
    t.status = { (raiseAll (raisesOf i s) s).status with done := true } := by
  cases i with
  | granule =>
    obtain ⟨hlen, rfl⟩ | ⟨hlen, -, -, rfl⟩ := exec_granule_next s t h
    · simp [raiseAll_eq, raisesOf, hlen]
    · have hraises : raisesOf .granule s = ⟨(granulePasses s).dp.softFails, overran (granulePasses s)⟩ := if_neg hlen
      simp [raiseAll_eq, hraises]
  | sym n =>
    obtain ⟨-, rfl⟩ := exec_sym_next s t n hi h
    simp [raiseAll_eq, raisesOf]
  | walk n =>
    obtain ⟨-, rfl⟩ := exec_walk_next s t n hi h
    simp [raiseAll_eq, raisesOf]
  | desc n =>
    obtain rfl := exec_desc_next hi h
    simp [raiseAll_eq, raisesOf]

/-- A raise that shows early is one that the whole run sets anyway (log 8). -/
theorem raiseAll_raiseShows_status {op : Op} {n : BitVec 6} (hphase : s.phase = .run op n) :
    (raiseAll (raisesOf (op.withTable n) s) (raiseShows s)).status =
      (raiseAll (raisesOf (op.withTable n) s) s).status := by
  simp only [raiseAll_eq, raiseShows, hphase]
  split_ifs with hsoft hrollback
  · simp [raise, hsoft]
  · simp [raise, hrollback]
    rfl
  · rfl

/-- Settles O59: the raises of the run are the same, and those that show early are among them. -/
theorem earlyRaiseLeavesTheFinalStatus : Obligations.EarlyRaiseLeavesTheFinalStatus := by
  unfold Obligations.EarlyRaiseLeavesTheFinalStatus
  intro s u op n hs hphase hexec
  have hwf := hs.runningLegal op n hphase
  have hraises : raisesOf (op.withTable n) (raiseShows s) = raisesOf (op.withTable n) s := by
    rw [raiseShows_observedAs, raisesOf_observedAs]
  obtain ⟨v, hv, hresults⟩ := exec_observedAs hwf (raiseShows s) hexec
  rw [← raiseShows_observedAs] at hv
  refine ⟨v, hv, ?_, hresults⟩
  rw [exec_status hwf hv, exec_status hwf hexec, hraises, raiseAll_raiseShows_status hphase]

end Sys2Proof.Machine
end

section
/-! PROOF. The reservoir's owner while a command runs (70_reset_and_hazards.md R241, R246): which of its moves are refused, and
that those made change nothing of what the command does. -/

namespace Sys2Proof.Machine

variable {s t u : State}

/-! ### The positions a command may read -/

theorem mayRead_iff {op : Op} {n : BitVec 6} (hphase : s.phase = .run op n) (p : Nat) :
    mayRead s p = true ↔ s.cur.toNat ≤ p ∧ p < reach (op.withTable n) s := by
  simp [mayRead, hphase]

theorem mayRead_below_cur {p : Nat} (h : p < s.cur.toNat) : mayRead s p = false := by
  cases hphase : s.phase with
  | idle => simp [mayRead, hphase]
  | run op n => exact Bool.eq_false_iff.mpr fun hread => Nat.not_le.mpr h ((mayRead_iff hphase p).mp hread).1

/-- A command whose reach is the cursor may read nothing. -/
theorem mayRead_of_reach_eq {op : Op} {n : BitVec 6} (hphase : s.phase = .run op n)
    (hreach : reach (op.withTable n) s = s.cur.toNat) (p : Nat) : mayRead s p = false := by
  refine Bool.eq_false_iff.mpr fun hread => ?_
  have hbounds := (mayRead_iff hphase p).mp hread
  omega

/-- The operations that read no bit: DESC (40_catalog.md R107), a GRANULE of no length (43_granule_decoder.md R162), and SYM and
WALK of an empty table (41_tree_walker.md R121). -/
theorem reach_of_no_read {op : Op} {n : BitVec 6}
    (h : op = .desc ∨ (op = .granule ∧ s.part23Len = 0) ∨ ((op = .sym ∨ op = .walk) ∧ (n = 0 ∨ n = 4 ∨ n = 14))) :
    reach (op.withTable n) s = s.cur.toNat := by
  have hempty (hn : n = 0 ∨ n = 4 ∨ n = 14) : (catalog s.params n.toNat).treeLength.val = 0 := by
    refine (catalog_empty s.params ?_).2
    rcases hn with rfl | rfl | rfl <;> decide
  obtain rfl | ⟨rfl, hlen⟩ | ⟨rfl | rfl, hn⟩ := h
  · rfl
  · exact if_pos hlen
  · simp [Op.withTable, reach, symbolReads, hempty hn]
  · simp [Op.withTable, reach, walkReads, hempty hn]

/-- Settles O56: the two refusals are the tests of `moveCursor` and `setBit`, and where the reach is the cursor nothing may be
read. -/
theorem outsideInterferenceIsRefused : Obligations.OutsideInterferenceIsRefused := by
  unfold Obligations.OutsideInterferenceIsRefused
  refine fun s => ⟨fun hbusy p => if_pos hbusy, fun p b hread hne => if_pos ⟨hread, hne⟩, fun p b hfree => if_neg ?_,
    fun p => mayRead_below_cur, fun p op n hphase hnone => mayRead_of_reach_eq hphase (reach_of_no_read hnone) p⟩
  rintro ⟨hread, hne⟩
  obtain hread' | heq := hfree
  · exact absurd (hread.symm.trans hread') nofun
  · exact hne heq

/-! ### What the owner's changes leave -/

theorem SameBits.mono {m m' : Memory} {lo hi hi' : Nat} (h : SameBits m m' lo hi) (hle : hi' ≤ hi) :
    SameBits m m' lo hi' :=
  fun p hlo hhi => h p hlo (hhi.trans_le hle)

/-- The same state over another reservoir. -/
def State.withResv (s : State) (m : Memory) : State := { s with resv := m }

/-- Buffering the bit that is buffered already, or dropping one that is not buffered, changes no bit. -/
theorem Memory.read_set_lookup (m : Memory) (p q : Nat) (hm : m.wf) : (m.set p (m.lookup p)).read q = m.read q := by
  rw [Memory.read, Memory.lookup_set m p q _ hm, Memory.read]
  split
  · next h => rw [h]
  · rfl

/-- A change that the model does not refuse keeps every bit that the running command may read. -/
theorem setBit_sameBits {op : Op} {n : BitVec 6} {p : BitVec 32} {b : Option Bit} (hs : s.Inv)
    (hphase : s.phase = .run op n) (h : setBit p b s = .next t) :
    t = s.withResv t.resv ∧ SameBits s.resv t.resv s.cur.toNat (reach (op.withTable n) s) := by
  unfold setBit at h
  split_ifs at h with hrefused
  cases h
  refine ⟨rfl, fun q hlo hhi => ?_⟩
  have hread := (mayRead_iff hphase q).mpr ⟨hlo, hhi⟩
  by_cases hq : q = p.toNat
  · subst hq
    obtain rfl : s.resv.lookup p.toNat = b := not_not.mp fun hne => hrefused ⟨hread, hne⟩
    exact (Memory.read_set_lookup s.resv _ _ hs.memoryCanonical).symm
  · exact (Memory.read_set_other s.resv _ q b hs.memoryCanonical hq).symm

/-! ### The passes of a granule -/

theorem cur_le_bigPass (s : State) (n : Nat) (g : Gran) : g.dp.cur ≤ (bigPass s n g).dp.cur := by
  induction n generalizing g with
  | zero => exact Nat.le_refl _
  | succ n ih =>
    rw [bigPass]
    split
    · exact (bigStep_frame s g).curLe.trans (ih _)
    · exact Nat.le_refl _

theorem cur_le_smallPass (s : State) (n : Nat) (g : Gran) : g.dp.cur ≤ (smallPass s n g).dp.cur := by
  induction n generalizing g with
  | zero => exact Nat.le_refl _
  | succ n ih =>
    rw [smallPass]
    split
    · exact (smallStep_frame s g).curLe.trans (ih _)
    · exact Nat.le_refl _

variable (s) (m : Memory)

theorem bigStep_withResv (g : Gran) (h : SameBits s.resv m g.dp.cur (bigStep s g).dp.cur) :
    bigStep (s.withResv m) g = bigStep s g := by
  have hsymbol := decodeSymbol_congr s.env m (tableFor s g.dp.tr.rs1 g.dp.tr.rs2 g.dp.tr.pos.toNat)
    { g.dp with tr := { g.dp.tr with tbl := BitVec.ofNat 6 (tableFor s g.dp.tr.rs1 g.dp.tr.rs2 g.dp.tr.pos.toNat) } } h
  rw [bigStep, bigStep, ← hsymbol]
  rfl

theorem smallStep_withResv (g : Gran) (h : SameBits s.resv m g.dp.cur (smallStep s g).dp.cur) :
    smallStep (s.withResv m) g = smallStep s g := by
  have hsymbol := decodeSymbol_congr s.env m (count1Table s)
    { g.dp with tr := { g.dp.tr with tbl := BitVec.ofNat 6 (count1Table s) } } h
  rw [smallStep, smallStep, ← hsymbol]
  rfl

theorem bigPass_withResv (n : Nat) (g : Gran) (h : SameBits s.resv m g.dp.cur (bigPass s n g).dp.cur) :
    bigPass (s.withResv m) n g = bigPass s n g := by
  induction n generalizing g with
  | zero => rfl
  | succ n ih =>
    rw [bigPass] at h ⊢
    rw [bigPass]
    by_cases hgoes : g.dp.tr.pos.toNat < bigEnd s
    · rw [if_pos hgoes] at h ⊢
      obtain ⟨hstep, hrest⟩ := h.split _ (bigStep_frame s g).curLe (cur_le_bigPass s n _)
      rw [bigStep_withResv s m g hstep, ih _ hrest]
      exact if_pos hgoes
    · rw [if_neg hgoes]
      exact if_neg hgoes

theorem smallPass_withResv (n : Nat) (g : Gran) (h : SameBits s.resv m g.dp.cur (smallPass s n g).dp.cur) :
    smallPass (s.withResv m) n g = smallPass s n g := by
  induction n generalizing g with
  | zero => rfl
  | succ n ih =>
    rw [smallPass] at h ⊢
    rw [smallPass]
    by_cases hgoes : smallGoes g = true
    · simp only [if_pos hgoes] at h ⊢
      obtain ⟨hstep, hrest⟩ := h.split _ (smallStep_frame s g).curLe (cur_le_smallPass s n _)
      rw [smallStep_withResv s m g hstep, ih _ hrest]
    · simp only [if_neg hgoes]

/-- Both passes depend on no bit but those between the cursor and where they leave it. -/
theorem granulePasses_withResv (h : SameBits s.resv m s.cur.toNat (granulePasses s).dp.cur) :
    granulePasses (s.withResv m) = granulePasses s := by
  obtain ⟨hbig, hsmall⟩ := h.split (bigPass s maxPairs (granuleStart s)).dp.cur
    (cur_le_bigPass s maxPairs (granuleStart s)) (cur_le_smallPass s maxQuads _)
  have hpairs := bigPass_withResv s m maxPairs (granuleStart s) hbig
  have hstart : granuleStart (s.withResv m) = granuleStart s := rfl
  rw [granulePasses, granulePasses, hstart, hpairs, smallPass_withResv s m maxQuads _ hsmall]

variable {s m}

/-! ### The running command -/

/-- No command's next state depends on a bit outside its reach, but for the reservoir itself. -/
theorem exec_withResv {i : Instr} (hi : i.wf = true) (h : exec i s = .next u)
    (hsame : SameBits s.resv m s.cur.toNat (reach i s)) :
    exec i (s.withResv m) = .next (u.withResv m) := by
  cases i with
  | granule =>
    obtain ⟨hlen, rfl⟩ | ⟨hlen, hend, hcur, rfl⟩ := exec_granule_next s u h
    · exact exec_granule_zero _ hlen
    · have hpasses := granulePasses_withResv s m (hsame.mono (granulePasses_reads s hlen))
      rw [exec_granule_of_range (s.withResv m) hlen hend, hpasses, retire_of_le _ hcur]
      simp only [granuleResult, hpasses, writeBack_eq]
      rfl
  | sym n =>
    obtain ⟨hcur, rfl⟩ := exec_sym_next s u n hi h
    have hsymbol : decodeSymbol (s.withResv m).env n.toNat (s.withResv m).datapath = decodeSymbol s.env n.toNat s.datapath :=
      decodeSymbol_congr s.env m _ _ (hsame.mono (decodeSymbol_reads s.env _ _))
    rw [exec_sym_of_range (s.withResv m) n hi, hsymbol, retire_of_le _ hcur]
    simp only [writeBack_eq]
    rfl
  | walk n =>
    obtain ⟨hcur, rfl⟩ := exec_walk_next s u n hi h
    have hwalk : walkTree (s.withResv m).env n.toNat (s.withResv m).datapath = walkTree s.env n.toNat s.datapath :=
      walkTree_congr s.env m _ _ (hsame.mono (walkTree_reads s.env _ _))
    rw [exec_walk_of_range (s.withResv m) n hi, hwalk, retire_of_le _ hcur]
    simp only [writeBack_eq]
    rfl
  | desc n =>
    obtain rfl := exec_desc_next hi h
    exact exec_desc_of_range _ n hi

/-- Settles O58: every change that is not refused keeps the bits below the command's reach. -/
theorem bitsOutOfReachDoNotChangeTheOutcome : Obligations.BitsOutOfReachDoNotChangeTheOutcome := by
  unfold Obligations.BitsOutOfReachDoNotChangeTheOutcome
  intro s t u op n p b hs hphase hset hexec
  obtain ⟨ht, hsame⟩ := setBit_sameBits hs hphase hset
  rw [ht]
  exact exec_withResv (hs.runningLegal op n hphase) hexec hsame

end Sys2Proof.Machine
end
